-- ==== Sys2Proof/Word.lean ====
section
/-! DEFINITION. The word types of UDPCK (00_scope.md R7, R9: every value is unsigned). -/

namespace Sys2Proof

/-- One byte of a buffer. -/
abbrev Byte := BitVec 8

/-- A 16-bit word: ports, lengths, checksums, the accumulator (00_scope.md R7). -/
abbrev Half := BitVec 16

/-- A 32-bit word: addresses, the host data bus, command words (00_scope.md R7, R8). -/
abbrev Word := BitVec 32

/-- A byte offset from BASE in the block's 256 KiB window (20_memory.md R60). -/
abbrev Offset := BitVec 18

end Sys2Proof
end

