-- ==== Sys2Proof/Syntax.lean ====
section
/-! DEFINITION. The commands of UDPCK: one constructor per row of spec/opcode_table.json (30_encoding.md R97). -/

namespace Sys2Proof

/-- A command. Every operand but an immediate is implicit in the opcode (30_encoding.md R95). -/
inductive Instr where
  | nop                  -- 40_checksum.md R118
  | clr                  -- 40_checksum.md R119
  | addw (imm : Half)    -- 40_checksum.md R120
  | addsa                -- 40_checksum.md R121
  | addda                -- 40_checksum.md R122
  | addports             -- 40_checksum.md R123
  | addlen               -- 40_checksum.md R124
  | mklen                -- 41_builder.md R151
  | addb (imm : Byte)    -- 40_checksum.md R125
  | flush                -- 40_checksum.md R126
  | fin                  -- 40_checksum.md R127
  | addbuf               -- 40_checksum.md R128, R129
  | build                -- 41_builder.md R152, R153
  | ser                  -- 42_serializer.md R171, R172
  deriving DecidableEq, Repr

end Sys2Proof
end

