-- ==== Sys2Proof/WellFormed.lean ====
section
/-! DEFINITION. Mnemonics, formats, and the check an assembler makes of a source line (30_encoding.md R102).
An `Instr` carries its immediates at their encoded widths (R93, R94), so every term of it is well formed;
what can be ill formed is a line, whose operand is any number or missing. -/

namespace Sys2Proof

/-- The 14 mnemonics, spelled as in 30_encoding.md R97. -/
inductive Mnemonic where
  | NOP | CLR | ADDW | ADDSA | ADDDA | ADDPORTS | ADDLEN | MKLEN | ADDB | FLUSH | FIN | ADDBUF | BUILD | SER
  deriving DecidableEq, Repr

/-- The three command formats (30_encoding.md R92, R93, R94). -/
inductive Format where
  | N | W | B
  deriving DecidableEq, Repr

/-- The format of each command (30_encoding.md R97). -/
def Mnemonic.format : Mnemonic → Format
  | .ADDW => .W
  | .ADDB => .B
  | .NOP | .CLR | .ADDSA | .ADDDA | .ADDPORTS | .ADDLEN | .MKLEN | .FLUSH | .FIN | .ADDBUF | .BUILD | .SER => .N

/-- A command line: a mnemonic and its operand, if one is written (30_encoding.md R102). -/
structure AsmLine where
  mnemonic : Mnemonic
  operand  : Option Nat
  deriving DecidableEq, Repr

/-- The assembler's check: format N takes no operand, format W one in 0 to 65535, format B one in 0 to 255;
a value outside is refused, not truncated (30_encoding.md R102). -/
def AsmLine.wf (l : AsmLine) : Bool :=
  match l.mnemonic.format, l.operand with
  | .N, none   => true
  | .W, some n => decide (n ≤ 65535)
  | .B, some n => decide (n ≤ 255)
  | .N, some _ => false
  | .W, none   => false
  | .B, none   => false

/-- The mnemonic of a command. -/
def Instr.mnemonic : Instr → Mnemonic
  | .nop => .NOP
  | .clr => .CLR
  | .addw _ => .ADDW
  | .addsa => .ADDSA
  | .addda => .ADDDA
  | .addports => .ADDPORTS
  | .addlen => .ADDLEN
  | .mklen => .MKLEN
  | .addb _ => .ADDB
  | .flush => .FLUSH
  | .fin => .FIN
  | .addbuf => .ADDBUF
  | .build => .BUILD
  | .ser => .SER

/-- The long commands (30_encoding.md R97, 00_scope.md R14). -/
def Instr.isLong : Instr → Bool
  | .addbuf | .build | .ser => true
  | .nop | .clr | .addw _ | .addsa | .addda | .addports | .addlen | .mklen | .addb _ | .flush | .fin => false

end Sys2Proof
end

