-- ==== Sys2Proof/Decode.lean ====
section
/-! DEFINITION. The command decoder, total on 32-bit words and rejecting by name (30_encoding.md R96 to R99),
then the encoder (R102), the opcode table (R97) and the assembler (R102). -/

namespace Sys2Proof

/-- Why a word is no command. -/
inductive DecodeError where
  | illegalOpcode   -- OP is not in the table (30_encoding.md R98)
  | reservedBits    -- a bit that the format reserves is set (30_encoding.md R99)
  deriving DecidableEq, Repr

/-- OP, bits 31:24 (30_encoding.md R91). -/
def opField (v : Word) : Byte := v.extractLsb' 24 8

/-- IMM16, bits 15:0 (30_encoding.md R93). -/
def imm16Field (v : Word) : Half := v.extractLsb' 0 16

/-- IMM8, bits 7:0 (30_encoding.md R94). -/
def imm8Field (v : Word) : Byte := v.extractLsb' 0 8

/-- Format N: bits 23:0 are reserved (30_encoding.md R92, R99). -/
def decodeN (v : Word) (i : Instr) : Except DecodeError Instr :=
  if v.extractLsb' 0 24 = 0 then .ok i else .error .reservedBits

/-- Format W: bits 23:16 are reserved (30_encoding.md R93, R99). -/
def decodeW (v : Word) (mk : Half → Instr) : Except DecodeError Instr :=
  if v.extractLsb' 16 8 = 0 then .ok (mk (imm16Field v)) else .error .reservedBits

/-- Format B: bits 23:8 are reserved (30_encoding.md R94, R99). -/
def decodeB (v : Word) (mk : Byte → Instr) : Except DecodeError Instr :=
  if v.extractLsb' 8 16 = 0 then .ok (mk (imm8Field v)) else .error .reservedBits

/-- The command a word stands for: the opcode is checked first, then the reserved bits (30_encoding.md R96, R97). -/
def decode (v : Word) : Except DecodeError Instr :=
  match (opField v).toNat with
  | 0x00 => decodeN v .nop
  | 0x01 => decodeN v .clr
  | 0x02 => decodeW v .addw
  | 0x03 => decodeN v .addsa
  | 0x04 => decodeN v .addda
  | 0x05 => decodeN v .addports
  | 0x06 => decodeN v .addlen
  | 0x07 => decodeN v .mklen
  | 0x08 => decodeB v .addb
  | 0x09 => decodeN v .flush
  | 0x0A => decodeN v .fin
  | 0x10 => decodeN v .addbuf
  | 0x11 => decodeN v .build
  | 0x12 => decodeN v .ser
  | _    => .error .illegalOpcode

/-- The word of a command (30_encoding.md R102: `enc(m) = match(m)`, `enc(ADDW x) = 0x02000000 | x`,
`enc(ADDB x) = 0x08000000 | x`). -/
def encode : Instr → Word
  | .nop      => 0x00000000
  | .clr      => 0x01000000
  | .addw imm => 0x02000000 ||| imm.setWidth 32
  | .addsa    => 0x03000000
  | .addda    => 0x04000000
  | .addports => 0x05000000
  | .addlen   => 0x06000000
  | .mklen    => 0x07000000
  | .addb imm => 0x08000000 ||| imm.setWidth 32
  | .flush    => 0x09000000
  | .fin      => 0x0A000000
  | .addbuf   => 0x10000000
  | .build    => 0x11000000
  | .ser      => 0x12000000

/-- A row of the opcode table (30_encoding.md R97). -/
structure OpcodeRow where
  mnemonic  : Mnemonic
  matchBits : Word
  mask      : Word
  long      : Bool
  deriving DecidableEq, Repr

/-- A word selects a row when `v & mask = match` (30_encoding.md R97). -/
def OpcodeRow.selectedBy (r : OpcodeRow) (v : Word) : Bool := (v &&& r.mask) == r.matchBits

/-- The opcode table (30_encoding.md R97), row by row. -/
def opcodeTable : List OpcodeRow :=
  [ ⟨.NOP,      0x00000000, 0xFFFFFFFF, false⟩,
    ⟨.CLR,      0x01000000, 0xFFFFFFFF, false⟩,
    ⟨.ADDW,     0x02000000, 0xFFFF0000, false⟩,
    ⟨.ADDSA,    0x03000000, 0xFFFFFFFF, false⟩,
    ⟨.ADDDA,    0x04000000, 0xFFFFFFFF, false⟩,
    ⟨.ADDPORTS, 0x05000000, 0xFFFFFFFF, false⟩,
    ⟨.ADDLEN,   0x06000000, 0xFFFFFFFF, false⟩,
    ⟨.MKLEN,    0x07000000, 0xFFFFFFFF, false⟩,
    ⟨.ADDB,     0x08000000, 0xFFFFFF00, false⟩,
    ⟨.FLUSH,    0x09000000, 0xFFFFFFFF, false⟩,
    ⟨.FIN,      0x0A000000, 0xFFFFFFFF, false⟩,
    ⟨.ADDBUF,   0x10000000, 0xFFFFFFFF, true⟩,
    ⟨.BUILD,    0x11000000, 0xFFFFFFFF, true⟩,
    ⟨.SER,      0x12000000, 0xFFFFFFFF, true⟩ ]

/-- The command a checked line stands for; none where the assembler refuses it (30_encoding.md R102). -/
def assemble (l : AsmLine) : Option Instr :=
  match l.wf, l.mnemonic, l.operand with
  | true, .NOP, _         => some .nop
  | true, .CLR, _         => some .clr
  | true, .ADDW, some n   => some (.addw (BitVec.ofNat 16 n))
  | true, .ADDSA, _       => some .addsa
  | true, .ADDDA, _       => some .addda
  | true, .ADDPORTS, _    => some .addports
  | true, .ADDLEN, _      => some .addlen
  | true, .MKLEN, _       => some .mklen
  | true, .ADDB, some n   => some (.addb (BitVec.ofNat 8 n))
  | true, .FLUSH, _       => some .flush
  | true, .FIN, _         => some .fin
  | true, .ADDBUF, _      => some .addbuf
  | true, .BUILD, _       => some .build
  | true, .SER, _         => some .ser
  | true, .ADDW, none     => none
  | true, .ADDB, none     => none
  | false, _, _           => none

/-- The command in the `nbits` low bits of `w`, numbered as spec/opcode_table.json numbers them (every row has
32 bits, so the number is the word); none where the decoder refuses it. -/
def decodeTableWord (nbits w : Nat) : Option Instr :=
  match decode (BitVec.ofNat 32 (w % 2 ^ nbits)) with
  | .ok i    => if w % 2 ^ nbits < 2 ^ 32 then some i else none
  | .error _ => none

end Sys2Proof
end

