-- ==== Sys2Proof/Machine/Arith.lean ====
section
/-! DEFINITION. The arithmetic helpers of 00_scope.md R12 and the complement of R9. -/

namespace Sys2Proof.Machine

/-- `be16(b0, b1)`, the big-endian word with `b0` its high byte (00_scope.md R12). -/
def be16 (b0 b1 : Byte) : Half := b0 ++ b1

/-- The high byte of a word, `v[15:8]`. -/
def hiByte (v : Half) : Byte := v.extractLsb' 8 8

/-- The low byte of a word, `v[7:0]`. -/
def loByte (v : Half) : Byte := v.extractLsb' 0 8

/-- The upper half of a 32-bit value, `v[31:16]` (00_scope.md R10). -/
def hiHalf (v : Word) : Half := v.extractLsb' 16 16

/-- The lower half of a 32-bit value, `v[15:0]` (00_scope.md R10). -/
def loHalf (v : Word) : Half := v.extractLsb' 0 16

/-- `eac16(a, w)`: the 17-bit sum with its carry added back into bit 0 (00_scope.md R12). -/
def eac16 (a w : Half) : Half :=
  let t : BitVec 17 := a.setWidth 17 + w.setWidth 17
  t.extractLsb' 0 16 + (t.extractLsb' 16 1).setWidth 16

/-- `eacSum(a, ws)`: the words added one after another (00_scope.md R12). -/
def eacSum (a : Half) (ws : List Half) : Half := ws.foldl eac16 a

/-- At most `fuel` iterations of the loop of `fold` (00_scope.md R12). -/
def foldLoop : Nat → Nat → Nat
  | 0,        s => s
  | fuel + 1, s => if 0x10000 ≤ s then foldLoop fuel (s % 0x10000 + s / 0x10000) else s

/-- `fold(s)`: carries added back until the sum fits 16 bits (00_scope.md R12). Each iteration lowers `s`
(40_checksum.md R113), so `s` iterations are enough. -/
def fold (s : Nat) : Nat := foldLoop s s

/-- `not16(v)`, `v xor 0xFFFF` (00_scope.md R9). -/
def not16 (v : Half) : Half := v ^^^ 0xFFFF

/-- The sum of a list of words as natural numbers, without overflow (40_checksum.md R110, step 1). -/
def wideSum (ws : List Half) : Nat := (ws.map BitVec.toNat).sum

end Sys2Proof.Machine
end

