-- ==== Sys2Proof/Machine/Params.lean ====
section
/-! DEFINITION. The fixed parameters of UDPCK (00_scope.md R8). -/

namespace Sys2Proof.Machine

/-- PROTO, 17 zero-extended to 16 bits (00_scope.md R7, R8). -/
def protoNumber : Half := 0x0011

/-- HDR_BYTES (00_scope.md R8). -/
def hdrBytes : Nat := 8

/-- PBUF_BYTES (00_scope.md R8). -/
def pbufBytes : Nat := 65536

/-- OBUF_BYTES (00_scope.md R8). -/
def obufBytes : Nat := 65544

/-- The value of ID (10_state.md R21). -/
def idValue : Word := 0x55445001

end Sys2Proof.Machine
end

