-- ==== Sys2Proof/Config.lean ====
section
/-! DEFINITION. What one implementation or platform fixes (00_scope.md R8) and the free values (00_scope.md R11, `any`). Nothing here has a body that a proof could see, but for BASE's alignment. -/

namespace Sys2Proof.Config

/-- The `n`-th free draw, at width `w`: the value of `any` (00_scope.md R11, 93_implementation_defined.md U2 to U4).
It has no body, so nothing can be proved of the value. Log 5. -/
opaque freeDraw (w n : Nat) : BitVec w

/-- Which 256 KiB window of the platform's address space the block stands in (92_eei_decisions.md OPEN-1). Log 10. -/
opaque baseIndex : Nat

/-- BASE, a multiple of 256 KiB (00_scope.md R8, 20_memory.md R60). Log 10. -/
def base : Nat := baseIndex * 0x40000

/-- IRQ_LINE, the interrupt-controller input that IRQ drives; it has no effect on the block
(60_exceptions.md R199, 92_eei_decisions.md OPEN-2). Log 10. -/
opaque irqLine : Nat

end Sys2Proof.Config
end

