-- ==== Sys2Proof/Machine/State.lean ====
section
/-! DEFINITION. The state of UDPCK as plain data (10_state.md), the events that drive it, the reasons a step
can stop, and the state after reset (10_state.md R45). -/

namespace Sys2Proof.Machine

/-- A long command in progress: the values of BUSY_OP (10_state.md R39). -/
inductive LongOp where
  | addbuf | build | ser
  deriving DecidableEq, Repr

/-- The errors the block records (60_exceptions.md R191). -/
inductive ErrorCode where
  | busy    -- a command or input write while BUSY = 1 (60_exceptions.md R192)
  | illop   -- an illegal opcode (60_exceptions.md R193)
  | rsvd    -- a nonzero reserved bit (60_exceptions.md R194)
  | range   -- a PLEN write above 0xFFFF (60_exceptions.md R196)
  deriving DecidableEq, Repr

/-- A field a long command's completion writes, and so one a read may not trust before it (10_state.md R44). -/
inductive Field where
  | lovf | pend | segv | acc | pbyte | len | csum | olen | obuf
  deriving DecidableEq, Repr

/-- The accumulator and byte-stream set ACC, PEND, PBYTE (10_state.md R29, R36, R43). -/
structure ByteStream where
  acc   : Half
  pend  : Bool
  pbyte : Byte
  deriving DecidableEq, Repr

/-- A buffer: the listed bytes in rising address order, and what an address without an entry reads as
(`none`: a free draw on every read). Log 7. -/
structure Memory where
  unlisted : Option Byte
  cells    : List Host.Cell
  deriving DecidableEq, Repr

/-- The width of a host access: 1, 2 or 4 bytes (20_memory.md R62). -/
inductive AccessSize where
  | byte | half | word
  deriving DecidableEq, Repr

/-- A transaction of the host port, at an offset from BASE (20_memory.md R62). -/
inductive Transaction where
  | read  (off : Offset) (size : AccessSize)
  | write (off : Offset) (size : AccessSize) (v : Word)
  deriving DecidableEq, Repr

/-- What can happen next: a host transaction, the engine's turn, a pulse of the reset input
(10_state.md R20, 20_memory.md R75, 70_reset_and_hazards.md R220). Log 1. -/
inductive Event where
  | host (t : Transaction)
  | engine
  | reset
  deriving DecidableEq, Repr

/-- What the host port answers: `Ok(d)` to a read, `Ok` to a write (20_memory.md R62). A `busErr` is the
fault of that name. Log 11. -/
inductive Response where
  | data (d : Word)
  | ok
  deriving DecidableEq, Repr

/-- Everything the spec gives the block (10_state.md R20), and the model's own schedule, response and draw counter. -/
structure State where
  ieDone   : Bool            -- CTRL[0] (10_state.md R22)
  ieErr    : Bool            -- CTRL[1] (10_state.md R22)
  busy     : Bool            -- STATUS[0] (10_state.md R24)
  done     : Bool            -- STATUS[1] (10_state.md R25)
  err      : Bool            -- STATUS[2] (10_state.md R26)
  errcode  : BitVec 4        -- STATUS[11:8] (10_state.md R26)
  lovf     : Bool            -- STATUS[3] (10_state.md R27)
  segv     : Bool            -- STATUS[5] (10_state.md R28)
  sport    : Half            -- PORTS[31:16] (10_state.md R31)
  dport    : Half            -- PORTS[15:0] (10_state.md R31)
  saddr    : Word            -- SADDR (10_state.md R32)
  daddr    : Word            -- DADDR (10_state.md R32)
  plen     : Half            -- PLEN[15:0] (10_state.md R33)
  len      : Half            -- LEN[15:0] (10_state.md R34)
  csum     : Half            -- CSUM[15:0] (10_state.md R35)
  stream   : ByteStream      -- ACC, STATUS[4] PEND, PBYTE (10_state.md R29, R36, R37)
  olen     : BitVec 17       -- OLEN[16:0] (10_state.md R38)
  busyOp   : Option LongOp   -- BUSY_OP, hidden (10_state.md R39)
  pbuf     : Memory          -- PBUF (10_state.md R40)
  obuf     : Memory          -- OBUF (10_state.md R41)
  schedule : List Event      -- the events to come, the next one first (the model's; log 1)
  response : Option Response -- the last answer of the host port (the model's; log 11)
  draws    : Nat             -- free values drawn so far (the model's; log 5)
  deriving DecidableEq, Repr

/-- Why a step stops. -/
inductive Fault where
  /-- The host made a narrow or misaligned access. Raised by `access`; the block changes no state, and the spec has a
  model treat it as a fault of the host agent's step (20_memory.md R63, R66; 93_implementation_defined.md U13).
  Safe: the model stops where the block goes on unchanged. Log 4. -/
  | busErr
  /-- The engine's turn with BUSY = 1 and no command in BUSY_OP. Raised by `engineStep`, in no state a run reaches.
  Safe: the model stops. Log 9. -/
  | busyWithoutCommand
  deriving DecidableEq, Repr

/-- Why a step has no meaning. -/
inductive Refusal where
  /-- A command that the model gives no meaning yet. Raised by an arm of `exec` only; no arm raises it now. Safe. -/
  | notModelled (mnemonic : String)
  deriving DecidableEq, Repr

/-- The empty buffer whose every byte is a free draw on each read (10_state.md R45). Log 7. -/
def Memory.unwritten : Memory := { unlisted := none, cells := [] }

/-- The state after reset (10_state.md R45). The schedule is empty: no host has asked for anything. -/
def State.reset : State where
  ieDone   := false
  ieErr    := false
  busy     := false
  done     := false
  err      := false
  errcode  := 0
  lovf     := false
  segv     := false
  sport    := 0
  dport    := 0
  saddr    := 0
  daddr    := 0
  plen     := 0
  len      := 0
  csum     := 0
  stream   := { acc := 0, pend := false, pbyte := 0 }
  olen     := 0
  busyOp   := none
  pbuf     := Memory.unwritten
  obuf     := Memory.unwritten
  schedule := []
  response := none
  draws    := 0

end Sys2Proof.Machine
end

