-- ==== Sys2Proof/Machine/Flags.lean ====
section
/-! DEFINITION. STATUS, CTRL, the error codes, the length overflow flag and the interrupt line
(10_state.md R22 to R28, R42). -/

namespace Sys2Proof.Machine

/-- The ERRCODE of each error (60_exceptions.md R191). -/
def ErrorCode.bits : ErrorCode → BitVec 4
  | .busy  => 1
  | .illop => 2
  | .rsvd  => 3
  | .range => 4

/-- The STATUS word: `ERRCODE` in bits 11:8, then SEGV, PEND, LOVF, ERR, DONE, BUSY in bits 5 to 0 (10_state.md R23).
LOVF, PEND and SEGV are arguments because a busy-window read may see a draw instead (20_memory.md R76). -/
def statusWord (s : State) (lovf pend segv : BitVec 1) : Word :=
  0#20 ++ s.errcode ++ 0#2 ++ segv ++ pend ++ lovf
    ++ BitVec.ofBool s.err ++ BitVec.ofBool s.done ++ BitVec.ofBool s.busy

/-- The CTRL word (10_state.md R22, 20_memory.md R64). -/
def ctrlWord (s : State) : Word := 0#30 ++ BitVec.ofBool s.ieErr ++ BitVec.ofBool s.ieDone

/-- `t`, the 17-bit total length `zext_17(PLEN) + 8` (41_builder.md R151, R153; 42_serializer.md R172). -/
def totalLength (plen : Half) : BitVec 17 := plen.setWidth 17 + BitVec.ofNat 17 hdrBytes

/-- The length field, `t[15:0]` (41_builder.md R150). Log 8. -/
def lengthField (plen : Half) : Half := (totalLength plen).extractLsb' 0 16

/-- The length overflow flag, `t[16]` (10_state.md R27, 41_builder.md R151). -/
def lengthOverflow (plen : Half) : Bool := (totalLength plen).getLsbD 16

/-- IRQ, the level output `(DONE & IE_DONE) | (ERR & IE_ERR)` (10_state.md R42). -/
def State.irq (s : State) : Bool := (s.done && s.ieDone) || (s.err && s.ieErr)

end Sys2Proof.Machine
end

