-- ==== Sys2Proof/Machine/Ops.lean ====
section
/-! DEFINITION. The named operations over buffers, free draws, the byte stream and the status bits, recording
an error among them (60_exceptions.md R195). -/

namespace Sys2Proof.Machine

/-! ## Buffers -/

/-- The byte listed at an address, if one is. -/
def findCell (a : Nat) : List Host.Cell → Option Byte
  | []          => none
  | (k, b) :: t => if k = a then some b else findCell a t

/-- The list with `b` at `a`, in rising address order. -/
def insertCell (a : Nat) (b : Byte) : List Host.Cell → List Host.Cell
  | []          => [(a, b)]
  | (k, c) :: t =>
    if a < k then (a, b) :: (k, c) :: t
    else if k = a then (a, b) :: t
    else (k, c) :: insertCell a b t

/-- The list without an entry at `a`. -/
def eraseCell (a : Nat) (cells : List Host.Cell) : List Host.Cell := cells.filter (fun c => c.1 ≠ a)

/-- The byte at an address; `none` is a free draw (10_state.md R40, R41). -/
def Memory.read (m : Memory) (a : Nat) : Option Byte :=
  match findCell a m.cells with
  | some b => some b
  | none   => m.unlisted

/-- Write one byte, keeping the canonical form: what an unlisted address reads as is not listed. -/
def Memory.write (m : Memory) (a : Nat) (b : Byte) : Memory :=
  if m.unlisted = some b then { m with cells := eraseCell a m.cells }
  else { m with cells := insertCell a b m.cells }

/-- Write bytes at rising addresses from `a`. -/
def Memory.writeBytes (m : Memory) (a : Nat) : List Byte → Memory
  | []      => m
  | b :: bs => (m.write a b).writeBytes (a + 1) bs

/-- The entries of a buffer that holds `bs` from address `a` and zeros elsewhere. -/
def imageCells (a : Nat) : List Byte → List Host.Cell
  | []      => []
  | b :: bs => if b = 0 then imageCells (a + 1) bs else (a, b) :: imageCells (a + 1) bs

/-- The buffer that holds `bs` from address 0 and 0x00 in every later byte (42_serializer.md R172). Log 7. -/
def Memory.image (bs : List Byte) : Memory := { unlisted := some 0, cells := imageCells 0 bs }

/-- Addresses strictly rising, each at least `lo`. -/
def cellsRising (lo : Nat) : List Host.Cell → Bool
  | []          => true
  | (k, _) :: t => decide (lo ≤ k) && cellsRising (k + 1) t

/-- The canonical form: addresses strictly rising, and no entry equal to what an unlisted address reads as. -/
def Memory.wf (m : Memory) : Bool :=
  cellsRising 0 m.cells && m.cells.all (fun c => m.unlisted ≠ some c.2)

/-- Every listed address is below `n`, the size of the buffer. -/
def Memory.within (m : Memory) (n : Nat) : Bool := m.cells.all (fun c => decide (c.1 < n))

/-! ## Reads with free draws -/

/-- One byte read with `d` draws made so far, and the draws made after it: an unspecified byte is a fresh draw
(00_scope.md R11, 93_implementation_defined.md U3, U4). -/
def readByte (m : Memory) (a d : Nat) : Byte × Nat :=
  match m.read a with
  | some b => (b, d)
  | none   => (Config.freeDraw 8 d, d + 1)

/-- `n` bytes from address `a`, one after another. -/
def readBytes (m : Memory) : (n a d : Nat) → List Byte × Nat
  | 0,     _, d => ([], d)
  | n + 1, a, d =>
    let (b, d')   := readByte m a d
    let (bs, d'') := readBytes m n (a + 1) d'
    (b :: bs, d'')

/-- The payload `PBUF[0 : PLEN)` as the engine reads it (10_state.md R40), and the draws made after it. -/
def State.payload (s : State) : List Byte × Nat := readBytes s.pbuf s.plen.toNat 0 s.draws

/-- The fields each long command writes at its completion, BUSY and DONE apart (10_state.md R44). -/
def LongOp.writes (op : LongOp) (f : Field) : Bool :=
  match op with
  | .addbuf =>
    match f with
    | .acc | .pend | .pbyte => true
    | .lovf | .segv | .len | .csum | .olen | .obuf => false
  | .build =>
    match f with
    | .len | .lovf | .acc | .pend | .pbyte | .csum | .segv => true
    | .olen | .obuf => false
  | .ser =>
    match f with
    | .obuf | .olen => true
    | .lovf | .pend | .segv | .acc | .pbyte | .len | .csum => false

/-- Whether a read of the field returns a free draw now: the busy window of a command that writes it (20_memory.md R76). -/
def State.hides (s : State) (f : Field) : Bool :=
  match s.busy, s.busyOp with
  | true, some op => op.writes f
  | true, none    => false
  | false, _      => false

/-- A read of a field of width `w` whose exact value is `exact`, with `d` draws made so far (20_memory.md R76). -/
def State.observe (s : State) (f : Field) {w : Nat} (exact : BitVec w) (d : Nat) : BitVec w × Nat :=
  if s.hides f then (Config.freeDraw w d, d + 1) else (exact, d)

/-! ## The byte stream and the accumulator -/

/-- `ACC <- eac16(ACC, w)`, past the byte stream (40_checksum.md R114, R120). -/
def ByteStream.addWord (st : ByteStream) (w : Half) : ByteStream := { st with acc := eac16 st.acc w }

/-- `ACC <- eac16(ACC, w)` for each word in turn. -/
def ByteStream.addWords (st : ByteStream) (ws : List Half) : ByteStream := { st with acc := eacSum st.acc ws }

/-- `ByteFeed(b)` (40_checksum.md R116). -/
def ByteStream.feed (st : ByteStream) (b : Byte) : ByteStream :=
  if st.pend then { acc := eac16 st.acc (be16 st.pbyte b), pend := false, pbyte := 0 }
  else { st with pend := true, pbyte := b }

/-- `ByteFeed` of each byte in turn. -/
def ByteStream.feedAll (st : ByteStream) (bs : List Byte) : ByteStream := bs.foldl ByteStream.feed st

/-- `Flush()` (40_checksum.md R117). -/
def ByteStream.flush (st : ByteStream) : ByteStream :=
  if st.pend then { acc := eac16 st.acc (be16 st.pbyte 0x00), pend := false, pbyte := 0 } else st

/-- `ACC <- 0; PEND <- 0; PBYTE <- 0` (40_checksum.md R119). -/
def ByteStream.cleared : ByteStream := { acc := 0, pend := false, pbyte := 0 }

/-- Replace the byte-stream set. -/
def State.withStream (s : State) (st : ByteStream) : State := { s with stream := st }

/-! ## Errors, acceptance, completion, reset -/

/-- `raise Error(code)`: the first error since the last clear keeps its code, ERR is set, and nothing else changes
(60_exceptions.md R195). -/
def State.raiseError (s : State) (e : ErrorCode) : State :=
  { s with errcode := if s.err then s.errcode else e.bits, err := true }

/-- A CMD or input write: refused with Error(BUSY) during a busy window (60_exceptions.md R192, 30_encoding.md R96). -/
def State.whenIdle (s : State) (effect : State → State) : State :=
  if s.busy then s.raiseError .busy else effect s

/-- The acceptance of a long command: `BUSY <- 1; BUSY_OP <- op` (30_encoding.md R96). -/
def State.acceptLong (s : State) (op : LongOp) : State := { s with busy := true, busyOp := some op }

/-- The end of every completion step: `DONE <- 1; BUSY <- 0` (40_checksum.md R129, 41_builder.md R153, 42_serializer.md R172). -/
def State.finishLong (s : State) : State := { s with done := true, busy := false }

/-- `LEN <- t[15:0]; LOVF <- t[16]` (41_builder.md R151, R153). -/
def State.recordLength (s : State) : State :=
  { s with len := lengthField s.plen, lovf := lengthOverflow s.plen }

/-- The reset input: every piece of the block's state takes its reset value, and any command in progress is abandoned
(70_reset_and_hazards.md R220, R221). The events to come stay, and so does the draw counter, so that later draws are fresh. Log 12. -/
def State.applyReset (s : State) : State := { State.reset with schedule := s.schedule, draws := s.draws }

end Sys2Proof.Machine
end

