-- ==== Sys2Proof/Machine/Operands.lean ====
section
/-! DEFINITION. The operands of the commands (30_encoding.md R95): immediates stand in the instruction, the rest
are words read from registers, and windows move four bytes at a time. -/

namespace Sys2Proof.Machine

/-- The two words of an address, `a[31:16]` then `a[15:0]` (40_checksum.md R111; 90_conflicts.md C1). -/
def addressWords (a : Word) : List Half := [hiHalf a, loHalf a]

/-- The words of ADDPORTS: the source port, then the destination port (40_checksum.md R123). -/
def portWords (s : State) : List Half := [s.sport, s.dport]

/-- The nine fixed words of a build, in the source's order (40_checksum.md R110, 41_builder.md R153). -/
def fixedWords (sp dp : Half) (sa da : Word) (len : Half) : List Half :=
  addressWords sa ++ addressWords da ++ [protoNumber, len, sp, dp, len]

/-- The bytes of a bus word in index order: the lowest index is in bits 31:24 (20_memory.md R67, R68, R72). -/
def wordBytes (v : Word) : List Byte :=
  [v.extractLsb' 24 8, v.extractLsb' 16 8, v.extractLsb' 8 8, v.extractLsb' 0 8]

/-- Four bytes of a buffer as one bus word, and the draws made after reading them (20_memory.md R67, R69). -/
def readWindow (m : Memory) (a d : Nat) : Word × Nat :=
  let (b0, d0) := readByte m a d
  let (b1, d1) := readByte m (a + 1) d0
  let (b2, d2) := readByte m (a + 2) d1
  let (b3, d3) := readByte m (a + 3) d2
  (b0 ++ b1 ++ b2 ++ b3, d3)

/-- The two bytes of a header field on the wire, high byte first (42_serializer.md R170, R172). -/
def wireBytes (v : Half) : List Byte := [hiByte v, loByte v]

/-- The eight header bytes of the wire image (42_serializer.md R170). -/
def headerBytes (sp dp len csum : Half) : List Byte :=
  wireBytes sp ++ wireBytes dp ++ wireBytes len ++ wireBytes csum

end Sys2Proof.Machine
end

