-- ==== Sys2Proof/Machine/Checksum.lean ====
section
/-! DEFINITION. The checksum engine commands (40_checksum.md section 3), each as the effect of its CMD write, and
ADDBUF's completion step. -/

namespace Sys2Proof.Machine

/-- The outcome of a command's CMD write: Error(BUSY) in a busy window, else its effect (30_encoding.md R96). Log 13. -/
def issue (s : State) (effect : State → State) : Host.Outcome State Fault Refusal := .next (s.whenIdle effect)

/-- NOP changes nothing (40_checksum.md R118). -/
def execNop (s : State) : Host.Outcome State Fault Refusal := issue s fun s => s

/-- CLR (40_checksum.md R119). -/
def execClr (s : State) : Host.Outcome State Fault Refusal := issue s fun s => s.withStream .cleared

/-- ADDW imm16 (40_checksum.md R120). -/
def execAddw (imm : Half) (s : State) : Host.Outcome State Fault Refusal :=
  issue s fun s => s.withStream (s.stream.addWord imm)

/-- ADDSA (40_checksum.md R121). -/
def execAddsa (s : State) : Host.Outcome State Fault Refusal :=
  issue s fun s => s.withStream (s.stream.addWords (addressWords s.saddr))

/-- ADDDA (40_checksum.md R122). -/
def execAddda (s : State) : Host.Outcome State Fault Refusal :=
  issue s fun s => s.withStream (s.stream.addWords (addressWords s.daddr))

/-- ADDPORTS (40_checksum.md R123). -/
def execAddports (s : State) : Host.Outcome State Fault Refusal :=
  issue s fun s => s.withStream (s.stream.addWords (portWords s))

/-- ADDLEN adds LEN as it stands (40_checksum.md R124). -/
def execAddlen (s : State) : Host.Outcome State Fault Refusal :=
  issue s fun s => s.withStream (s.stream.addWord s.len)

/-- ADDB imm8 (40_checksum.md R125). -/
def execAddb (imm : Byte) (s : State) : Host.Outcome State Fault Refusal :=
  issue s fun s => s.withStream (s.stream.feed imm)

/-- FLUSH (40_checksum.md R126). -/
def execFlush (s : State) : Host.Outcome State Fault Refusal := issue s fun s => s.withStream s.stream.flush

/-- FIN: flush, CSUM is the complement of ACC, SEGV falls (40_checksum.md R127). -/
def execFin (s : State) : Host.Outcome State Fault Refusal :=
  issue s fun s => { s.withStream s.stream.flush with csum := not16 s.stream.flush.acc, segv := false }

/-- ADDBUF, its acceptance (40_checksum.md R128). -/
def execAddbuf (s : State) : Host.Outcome State Fault Refusal := issue s fun s => s.acceptLong .addbuf

/-- ADDBUF, its completion step: the payload goes through the byte stream, with no flush (40_checksum.md R129). -/
def completeAddbuf (s : State) : State :=
  let (p, d) := s.payload
  ({ s with stream := s.stream.feedAll p, draws := d } : State).finishLong

end Sys2Proof.Machine
end

