-- ==== Sys2Proof/Machine/Builder.lean ====
section
/-! DEFINITION. The segment builder commands MKLEN and BUILD, and BUILD's completion step (41_builder.md). -/

namespace Sys2Proof.Machine

/-- MKLEN (41_builder.md R151). -/
def execMklen (s : State) : Host.Outcome State Fault Refusal := issue s fun s => s.recordLength

/-- BUILD, its acceptance (41_builder.md R152). -/
def execBuild (s : State) : Host.Outcome State Fault Refusal := issue s fun s => s.acceptLong .build

/-- The byte-stream set after BUILD's sums: cleared, the nine fixed words, the payload, flushed (41_builder.md R153). -/
def buildStream (s : State) (p : List Byte) : ByteStream :=
  ((ByteStream.cleared.addWords (fixedWords s.sport s.dport s.saddr s.daddr s.len)).feedAll p).flush

/-- BUILD, its completion step (41_builder.md R153). -/
def completeBuild (s : State) : State :=
  let (p, d) := s.payload
  let s' := s.recordLength
  let st := buildStream s' p
  ({ s' with stream := st, csum := not16 st.acc, segv := true, draws := d } : State).finishLong

end Sys2Proof.Machine
end

