-- ==== Sys2Proof/Machine/Serializer.lean ====
section
/-! DEFINITION. The wire serializer command SER and its completion step (42_serializer.md). -/

namespace Sys2Proof.Machine

/-- SER, its acceptance (42_serializer.md R171). -/
def execSer (s : State) : Host.Outcome State Fault Refusal := issue s fun s => s.acceptLong .ser

/-- SER, its completion step: header, payload and zero fill into OBUF, and OLEN; LEN and CSUM go out as they stand
(42_serializer.md R172, R175). -/
def completeSer (s : State) : State :=
  let (p, d) := s.payload
  ({ s with
      obuf := Memory.image (headerBytes s.sport s.dport s.len s.csum ++ p)
      olen := totalLength s.plen
      draws := d } : State).finishLong

end Sys2Proof.Machine
end

