-- ==== Sys2Proof/Machine/Dispatch.lean ====
section
/-! DEFINITION. The effect of a command's CMD write, one arm per command (30_encoding.md R96, R97). -/

namespace Sys2Proof.Machine

def exec (i : Instr) (s : State) : Host.Outcome State Fault Refusal :=
  match i with
  | .nop => Sys2Proof.Machine.execNop s
  | .clr => Sys2Proof.Machine.execClr s
  | .addw imm => Sys2Proof.Machine.execAddw imm s
  | .addsa => Sys2Proof.Machine.execAddsa s
  | .addda => Sys2Proof.Machine.execAddda s
  | .addports => Sys2Proof.Machine.execAddports s
  | .addlen => Sys2Proof.Machine.execAddlen s
  | .mklen => Sys2Proof.Machine.execMklen s
  | .addb imm => Sys2Proof.Machine.execAddb imm s
  | .flush => Sys2Proof.Machine.execFlush s
  | .fin => Sys2Proof.Machine.execFin s
  | .addbuf => Sys2Proof.Machine.execAddbuf s
  | .build => Sys2Proof.Machine.execBuild s
  | .ser => Sys2Proof.Machine.execSer s

end Sys2Proof.Machine
end

