-- ==== Sys2Proof/Machine/HostPort.lean ====
section
/-! DEFINITION. The host port: the address map, register and window reads and writes, and the issue of a command
(20_memory.md, 30_encoding.md R96). -/

namespace Sys2Proof.Machine

/-- The 13 registers (10_state.md R20's table). -/
inductive Reg where
  | id | ctrl | status | cmd | ports | saddr | daddr | plen | len | csum | acc | pbyte | olen
  deriving DecidableEq, Repr

/-- What an aligned offset addresses (20_memory.md R61). -/
inductive Region where
  | reg (r : Reg)
  | pbuf (k : Nat)    -- the PBUF word whose first byte is PBUF[k]
  | obuf (k : Nat)    -- the OBUF word whose first byte is OBUF[k]
  | reserved          -- reads as 0, ignores writes (20_memory.md R70)
  deriving DecidableEq, Repr

/-- The register at an offset of the register region (10_state.md R20's table). -/
def regAt (off : Nat) : Option Reg :=
  match off with
  | 0x000 => some .id
  | 0x004 => some .ctrl
  | 0x008 => some .status
  | 0x00C => some .cmd
  | 0x010 => some .ports
  | 0x014 => some .saddr
  | 0x018 => some .daddr
  | 0x01C => some .plen
  | 0x020 => some .len
  | 0x024 => some .csum
  | 0x028 => some .acc
  | 0x02C => some .pbyte
  | 0x030 => some .olen
  | _     => none

/-- The region of an aligned offset (20_memory.md R61). -/
def regionAt (off : Nat) : Region :=
  if off < 0x10000 then
    match regAt off with
    | some r => .reg r
    | none   => .reserved
  else if off < 0x10000 + pbufBytes then .pbuf (off - 0x10000)
  else if 0x20000 ≤ off ∧ off < 0x20000 + obufBytes then .obuf (off - 0x20000)
  else .reserved

/-- Only aligned 4-byte accesses are supported (20_memory.md R63). -/
def accepted (off : Offset) (size : AccessSize) : Bool := size = .word && off.toNat % 4 = 0

/-- The offset from BASE of a platform address; none where UDPCK does not decode it (20_memory.md R60, R61). Log 10. -/
def offsetOf (addr : Nat) : Option Offset :=
  if Config.base ≤ addr ∧ addr < Config.base + 0x40000 then some (BitVec.ofNat 18 (addr - Config.base)) else none

/-- The value a register read returns, and the draws made after it (20_memory.md R64, R76).
A draw stands in for each field that the busy window hides, LOVF, PEND, SEGV in that order within STATUS. Log 6. -/
def readReg (r : Reg) (s : State) : Word × Nat :=
  match r with
  | .id     => (idValue, s.draws)
  | .ctrl   => (ctrlWord s, s.draws)
  | .status =>
    let (lovf, d0) := s.observe .lovf (BitVec.ofBool s.lovf) s.draws
    let (pend, d1) := s.observe .pend (BitVec.ofBool s.stream.pend) d0
    let (segv, d2) := s.observe .segv (BitVec.ofBool s.segv) d1
    (statusWord s lovf pend segv, d2)
  | .cmd    => (0, s.draws)
  | .ports  => (s.sport ++ s.dport, s.draws)
  | .saddr  => (s.saddr, s.draws)
  | .daddr  => (s.daddr, s.draws)
  | .plen   => (s.plen.setWidth 32, s.draws)
  | .len    => let (v, d) := s.observe .len s.len s.draws; (v.setWidth 32, d)
  | .csum   => let (v, d) := s.observe .csum s.csum s.draws; (v.setWidth 32, d)
  | .acc    => let (v, d) := s.observe .acc s.stream.acc s.draws; (v.setWidth 32, d)
  | .pbyte  => let (v, d) := s.observe .pbyte s.stream.pbyte s.draws; (v.setWidth 32, d)
  | .olen   => let (v, d) := s.observe .olen s.olen s.draws; (v.setWidth 32, d)

/-- The value an aligned read returns, and the draws made after it (20_memory.md R64, R67, R69, R70, R76). -/
def readRegion (r : Region) (s : State) : Word × Nat :=
  match r with
  | .reg r    => readReg r s
  | .pbuf k   => readWindow s.pbuf k s.draws
  | .obuf k   => if s.hides .obuf then (Config.freeDraw 32 s.draws, s.draws + 1) else readWindow s.obuf k s.draws
  | .reserved => (0, s.draws)

/-- The error a word that is no command raises (30_encoding.md R96, R98, R99). -/
def decodeErrorCode : DecodeError → ErrorCode
  | .illegalOpcode => .illop
  | .reservedBits  => .rsvd

/-- `IssueCommand(v)`: BUSY is checked first, then the opcode, then the reserved bits (30_encoding.md R96). -/
def issueCommand (v : Word) (s : State) : Host.Outcome State Fault Refusal :=
  if s.busy then .next (s.raiseError .busy)
  else match decode v with
    | .ok i    => exec i s
    | .error e => .next (s.raiseError (decodeErrorCode e))

/-- A CTRL write (10_state.md R22). -/
def writeCtrl (v : Word) (s : State) : State := { s with ieDone := v.getLsbD 0, ieErr := v.getLsbD 1 }

/-- A STATUS write: bit 1 clears DONE, bit 2 clears ERR and ERRCODE (10_state.md R23). -/
def writeStatus (v : Word) (s : State) : State :=
  { s with
    done    := if v.getLsbD 1 then false else s.done
    err     := if v.getLsbD 2 then false else s.err
    errcode := if v.getLsbD 2 then 0 else s.errcode }

/-- An accepted PORTS write (20_memory.md R65). -/
def writePorts (v : Word) (s : State) : State := { s with sport := hiHalf v, dport := loHalf v, segv := false }

/-- An accepted SADDR write (20_memory.md R65). -/
def writeSaddr (v : Word) (s : State) : State := { s with saddr := v, segv := false }

/-- An accepted DADDR write (20_memory.md R65). -/
def writeDaddr (v : Word) (s : State) : State := { s with daddr := v, segv := false }

/-- A PLEN write outside a busy window: refused with Error(RANGE) when bits 31:16 are not all zero
(20_memory.md R65, 60_exceptions.md R196). -/
def writePlen (v : Word) (s : State) : State :=
  if hiHalf v ≠ 0 then s.raiseError .range else { s with plen := loHalf v, segv := false }

/-- An accepted PBUF-window write (20_memory.md R68). -/
def writePbuf (k : Nat) (v : Word) (s : State) : State :=
  { s with pbuf := s.pbuf.writeBytes k (wordBytes v), segv := false }

/-- A register write; a read-only register ignores it without error (20_memory.md R65). -/
def writeReg (r : Reg) (v : Word) (s : State) : Host.Outcome State Fault Refusal :=
  match r with
  | .ctrl   => .next (writeCtrl v s)
  | .status => .next (writeStatus v s)
  | .cmd    => issueCommand v s
  | .ports  => .next (s.whenIdle (writePorts v))
  | .saddr  => .next (s.whenIdle (writeSaddr v))
  | .daddr  => .next (s.whenIdle (writeDaddr v))
  | .plen   => .next (s.whenIdle (writePlen v))
  | .id | .len | .csum | .acc | .pbyte | .olen => .next s

/-- An aligned write (20_memory.md R65, R68, R69, R70). -/
def writeRegion (r : Region) (v : Word) (s : State) : Host.Outcome State Fault Refusal :=
  match r with
  | .reg r    => writeReg r v s
  | .pbuf k   => .next (s.whenIdle (writePbuf k v))
  | .obuf _   => .next s
  | .reserved => .next s

/-- One transaction of the host port (20_memory.md R62, R63). A read leaves the state as it is but for the answer and
the draws made; a write answers `Ok` whatever its effect; a narrow or misaligned access is a bus error. Log 4, log 11. -/
def access (t : Transaction) (s : State) : Host.Outcome State Fault Refusal :=
  match t with
  | .read off size =>
    if accepted off size then
      let (v, d) := readRegion (regionAt off.toNat) s
      .next { s with response := some (.data v), draws := d }
    else .fault .busErr
  | .write off size v =>
    if accepted off size then writeRegion (regionAt off.toNat) v { s with response := some .ok }
    else .fault .busErr

end Sys2Proof.Machine
end

