-- ==== Sys2Proof/Machine/Agents.lean ====
section
/-! DEFINITION. What each event does: a host transaction, the engine's turn, a reset pulse
(10_state.md R20, 20_memory.md R75). -/

namespace Sys2Proof.Machine

/-- The completion step of the long command in progress (10_state.md R20, 60_exceptions.md R204). -/
def engineStep (s : State) : Host.Outcome State Fault Refusal :=
  match s.busyOp with
  | some .addbuf => .next (completeAddbuf s)
  | some .build  => .next (completeBuild s)
  | some .ser    => .next (completeSer s)
  | none         => .fault .busyWithoutCommand

/-- The engine's turn: its step is enabled exactly when BUSY = 1, and otherwise nothing happens (10_state.md R20). Log 2. -/
def engineTurn (s : State) : Host.Outcome State Fault Refusal := if s.busy then engineStep s else .next s

/-- One event. -/
def perform (e : Event) (s : State) : Host.Outcome State Fault Refusal :=
  match e with
  | .host t => access t s
  | .engine => engineTurn s
  | .reset  => .next s.applyReset

/-- The offset of CMD (10_state.md R30). -/
def cmdOffset : Offset := 0x0000C

/-- The host write that issues a command word (30_encoding.md R104, `cmd X`). -/
def cmdWrite (w : Word) : Event := .host (.write cmdOffset .word w)

end Sys2Proof.Machine
end

