-- ==== Sys2Proof/Machine/Step.lean ====
section
/-! DEFINITION. One step: the next event of the schedule, in one total order (20_memory.md R75). -/

namespace Sys2Proof.Machine

/-- One step. When the schedule holds no more events the engine has its turn, so that a long command always
completes (60_exceptions.md R204). Log 1, log 2. -/
def step (s : State) : Host.Outcome State Fault Refusal :=
  match s.schedule with
  | []        => engineTurn s
  | e :: rest => perform e { s with schedule := rest }

/-- The state whose next event is the CMD write of a word: the block fetches nothing, and a command is issued by the
host's write (20_memory.md R78, 30_encoding.md R96). Log 3. -/
def State.withFetchWord (s : State) (nbits w : Nat) : State :=
  { s with schedule := cmdWrite (BitVec.ofNat 32 (w % 2 ^ nbits)) :: s.schedule }

end Sys2Proof.Machine
end

