-- ==== Sys2Proof/Machine/Pseudo.lean ====
section
/-! DEFINITION. Host program forms and pseudo-instructions as lists of events (30_encoding.md R103, R104). -/

namespace Sys2Proof.Machine

/-- `cmd X` (30_encoding.md R104). -/
def cmd (i : Instr) : Event := cmdWrite (encode i)

/-- `ADDPROTO` (30_encoding.md R104). -/
def addProto : List Event := [cmd (.addw 0x0011)]

/-- `SETACC v` (30_encoding.md R104). -/
def setAcc (v : Half) : List Event := [cmd .clr, cmd (.addw v)]

/-- `ADDA32 v` (30_encoding.md R104). -/
def addA32 (v : Word) : List Event := [cmd (.addw (hiHalf v)), cmd (.addw (loHalf v))]

/-- `ADDBYTES b0, …, bn` (30_encoding.md R104). -/
def addBytes (bs : List Byte) : List Event := bs.map fun b => cmd (.addb b)

/-- `PSEUDOHDR` (30_encoding.md R104). -/
def pseudoHdr : List Event := [cmd .addsa, cmd .addda, cmd (.addw 0x0011), cmd .addlen]

/-- `wait_idle` after `polls` reads of STATUS that still show BUSY, then the engine's turn and the read that shows
BUSY = 0 (30_encoding.md R103). Log 16. -/
def waitIdle (polls : Nat) : List Event :=
  List.replicate polls (.host (.read 0x00008 .word)) ++ [.engine, .host (.read 0x00008 .word)]

/-- `BUILDSEQ` (30_encoding.md R104). -/
def buildSeq (polls : Nat) : List Event :=
  [cmd .clr, cmd .mklen, cmd .addsa, cmd .addda, cmd (.addw 0x0011), cmd .addlen, cmd .addports, cmd .addlen, cmd .addbuf]
    ++ waitIdle polls ++ [cmd .fin]

/-- The word writes that load `bs` from PBUF offset `k`, missing bytes 0 (30_encoding.md R104, `wrpay`). -/
def loadWords (k : Nat) : List Byte → List Event
  | []                     => []
  | [a]                    => [.host (.write (BitVec.ofNat 18 (0x10000 + k)) .word (a ++ (0 : Byte) ++ (0 : Byte) ++ (0 : Byte)))]
  | [a, b]                 => [.host (.write (BitVec.ofNat 18 (0x10000 + k)) .word (a ++ b ++ (0 : Byte) ++ (0 : Byte)))]
  | [a, b, c]              => [.host (.write (BitVec.ofNat 18 (0x10000 + k)) .word (a ++ b ++ c ++ (0 : Byte)))]
  | a :: b :: c :: d :: t  => .host (.write (BitVec.ofNat 18 (0x10000 + k)) .word (a ++ b ++ c ++ d)) :: loadWords (k + 4) t

/-- `wrpay b0, …, b(n-1)` (30_encoding.md R104). -/
def wrPay (bs : List Byte) : List Event :=
  loadWords 0 bs ++ [.host (.write 0x0001C .word (BitVec.ofNat 32 bs.length))]

end Sys2Proof.Machine
end

