-- ==== Sys2Proof/Machine/Reference.lean ====
section
/-! DEFINITION. The source's checksum as a function of a segment (40_checksum.md section 1). Statements compare the
machine with it; no step calls it. -/

namespace Sys2Proof.Machine

/-- `PayloadWords(P)`: big-endian words in order, an odd last byte padded with zero (40_checksum.md R112). -/
def payloadWords : List Byte → List Half
  | []            => []
  | [b]           => [be16 b 0x00]
  | b0 :: b1 :: t => be16 b0 b1 :: payloadWords t

/-- `CsumRef(P, sp, dp, sa, da)`: an exact sum of the words, one fold, the complement (40_checksum.md R110). -/
def csumRef (P : List Byte) (sp dp : Half) (sa da : Word) : Half :=
  let L := BitVec.ofNat 16 (hdrBytes + P.length)
  let words := [hiHalf sa, loHalf sa, hiHalf da, loHalf da, 0x0011, L, sp, dp, L] ++ payloadWords P
  not16 (BitVec.ofNat 16 (fold (wideSum words)))

/-- The wire image of a segment: the header fields big-endian, then the payload (42_serializer.md R170). -/
def wireImage (sp dp len csum : Half) (P : List Byte) : List Byte :=
  [hiByte sp, loByte sp, hiByte dp, loByte dp, hiByte len, loByte len, hiByte csum, loByte csum] ++ P

end Sys2Proof.Machine
end

