-- ==== Sys2Proof/Safety.lean ====
section
/-! DEFINITION. What a safe run is, and the invariant that reachable states meet. -/

namespace Sys2Proof.Machine

/-- An event that is no bus error: a transaction is an aligned 4-byte access (20_memory.md R63). -/
def Event.wellFormed : Event → Bool
  | .host (.read off size)    => accepted off size
  | .host (.write off size _) => accepted off size
  | .engine                   => true
  | .reset                    => true

/-- Every transaction still to come is an aligned 4-byte access. -/
abbrev SafeSchedule (s : State) : Prop := s.schedule.all Event.wellFormed = true

/-- The state after `k` steps, where none of them stops. -/
def runsTo (s : State) (k : Nat) (t : State) : Prop := Sys2Proof.core.run k s = .next t

/-- A long command is in progress whenever BUSY = 1 (10_state.md R39). -/
abbrev CommandInProgress (s : State) : Prop := s.busy = true → s.busyOp.isSome = true

/-- The buffers keep their canonical form and their sizes; PBUF's unlisted bytes are draws, and OBUF's are draws
before the first SER completion and zero after it (10_state.md R40, R41; 42_serializer.md R172). -/
structure BuffersOk (s : State) : Prop where
  pbufWf     : s.pbuf.wf = true
  pbufSize   : s.pbuf.within pbufBytes = true
  pbufDraws  : s.pbuf.unlisted = none
  obufWf     : s.obuf.wf = true
  obufSize   : s.obuf.within obufBytes = true
  obufEmpty  : s.obuf.unlisted = none → s.obuf.cells = []
  obufFilled : ∀ b, s.obuf.unlisted = some b → b = 0

/-- What the rules say of the status fields in every reachable state. -/
structure StatusOk (s : State) : Prop where
  /-- ERRCODE is 0 to 4, and it is 0 exactly while ERR = 0 (10_state.md R26, 60_exceptions.md R195). -/
  errcode  : s.errcode.toNat ≤ 4
  errNone  : s.err = false ↔ s.errcode = 0
  /-- "When PEND = 0, PBYTE is 0" (10_state.md R29). -/
  pending  : s.stream.pend = false → s.stream.pbyte = 0
  /-- LEN and LOVF hold a total length of at least 8 bytes, or nothing was computed since reset (41_builder.md R151). -/
  length   : (s.len = 0 ∧ s.lovf = false) ∨ ∃ p : Half, s.len.toNat + (if s.lovf then 65536 else 0) = 8 + p.toNat
  /-- OLEN is 8 to 65543 after a SER completion, 0 before (10_state.md R38). -/
  olen     : (s.olen = 0 ∧ s.obuf.unlisted = none) ∨ ∃ p : Half, s.olen.toNat = 8 + p.toNat ∧ s.obuf.unlisted = some 0
  inFlight : CommandInProgress s

/-- The invariant of the machine. -/
structure Inv (s : State) : Prop where
  buffers : BuffersOk s
  status  : StatusOk s

/-- A list of bytes that the engine may read as the payload: its length is PLEN, and every byte the host wrote since
reset is exact (10_state.md R40). A byte not written is unconstrained. -/
def IsPayload (s : State) (P : List Byte) : Prop :=
  P.length = s.plen.toNat ∧ ∀ k b, k < s.plen.toNat → s.pbuf.read k = some b → P[k]? = some b

/-- Every byte of PBUF[0 : PLEN) was written since reset (41_builder.md R155). -/
def PayloadWritten (s : State) : Prop := ∀ k, k < s.plen.toNat → (s.pbuf.read k).isSome = true

/-- One byte of a buffer as a read sees it: the byte written, or the next free draw (10_state.md R40, R41). -/
def ByteSeen (m : Memory) (a d : Nat) (b : Byte) (d' : Nat) : Prop :=
  (m.read a = some b ∧ d' = d) ∨ (m.read a = none ∧ b = Config.freeDraw 8 d ∧ d' = d + 1)

/-- The next event is a CMD write, outside a busy window, whose word is the command. -/
def CommandIssued (s : State) (i : Instr) : Prop :=
  s.busy = false ∧ ∃ w rest, s.schedule = cmdWrite w :: rest ∧ decode w = .ok i

/-- The engine has the next turn: its own event, or no event is left. -/
def EngineNext (s : State) : Prop := s.schedule = [] ∨ ∃ rest, s.schedule = .engine :: rest

/-- The next step is the completion of the long command. -/
def Completes (s : State) (op : LongOp) : Prop := s.busy = true ∧ s.busyOp = some op ∧ EngineNext s

/-- The next event is a reset. -/
def ResetNext (s : State) : Prop := ∃ rest, s.schedule = .reset :: rest

/-- What SEGV = 1 means: LEN, LOVF and CSUM are those of a build from the present PORTS, SADDR, DADDR, PLEN and PBUF
(10_state.md R28, 41_builder.md R155). -/
def SegmentValid (s : State) : Prop :=
  s.segv = true → ∃ P, IsPayload s P ∧ s.len.toNat = (8 + s.plen.toNat) % 65536 ∧
    (s.lovf = true ↔ 65535 < 8 + s.plen.toNat) ∧ s.csum = csumRef P s.sport s.dport s.saddr s.daddr

/-- LEN is the length field of the present PLEN (41_builder.md R157). -/
def LengthCurrent (s : State) : Prop := s.len.toNat = (8 + s.plen.toNat) % 65536

/-- The law of one command: its word decodes to it, and its CMD write has the effect outside a busy window and is
refused with Error(BUSY), code 1, inside one (30_encoding.md R96, 60_exceptions.md R192). -/
def CommandLaw (w : Word) (i : Instr) (effect : State → State) : Prop :=
  decode w = .ok i ∧ ∀ s : State,
    (s.busy = false → exec i s = .next (effect s)) ∧
    (s.busy = true → exec i s = .next { s with err := true, errcode := if s.err then s.errcode else 1 })

end Sys2Proof.Machine
end

