-- ==== Sys2Proof/Certificates/Slice0/Obligations.lean ====
section
/-! DEFINITION. What the model claims of UDPCK, stated for the provers. Where a statement rests on a choice of the
model, its docstring names the log entry. -/

open Sys2Proof Sys2Proof.Machine

/-! ## Encoding -/

/-- Decoding the word of a command gives the command back, at every value of its immediate (30_encoding.md R97, R102). -/
def Obligations.DecodeOfEncode : Prop := ∀ i : Instr, decode (encode i) = .ok i

/-- A word that decodes is the word of the command it decodes to: no two words stand for one command
(30_encoding.md R97, R99, R102). -/
def Obligations.EncodeOfDecode : Prop := ∀ (v : Word) (i : Instr), decode v = .ok i → encode i = v

/-- A word decodes to the command of the row it selects, and only to that (30_encoding.md R97). -/
def Obligations.DecodeFollowsTheOpcodeTable : Prop :=
  ∀ v : Word,
    (∀ r ∈ opcodeTable, v &&& r.mask = r.matchBits →
      ∃ i, decode v = .ok i ∧ i.mnemonic = r.mnemonic ∧ i.isLong = r.long) ∧
    (∀ i, decode v = .ok i → ∃ r ∈ opcodeTable, r.mnemonic = i.mnemonic ∧ v &&& r.mask = r.matchBits)

/-- Words written out from the spec's encodings (30_encoding.md R97, R102; 95_test_vectors.md T2, T3, T9). -/
def Obligations.WrittenWordsDecode : Prop :=
  decode 0x00000000 = .ok .nop ∧ decode 0x02000011 = .ok (.addw 0x0011) ∧ decode 0x0200FFFF = .ok (.addw 0xFFFF) ∧
  decode 0x0800006F = .ok (.addb 0x6F) ∧ decode 0x07000000 = .ok .mklen ∧ decode 0x0A000000 = .ok .fin ∧
  decode 0x11000000 = .ok .build ∧ decode 0x12000000 = .ok .ser ∧
  decode 0x02010000 = .error .reservedBits ∧ decode 0x08000100 = .error .reservedBits ∧
  decode 0x0B000001 = .error .illegalOpcode ∧ decode 0xFF000000 = .error .illegalOpcode

/-- The assembler takes an immediate exactly when it is in range, and encodes it unchanged; a format N line takes no
operand (30_encoding.md R102). -/
def Obligations.AssemblerRefusesAndEncodesExactly : Prop :=
  (∀ n, assemble ⟨.ADDW, some n⟩ = none ↔ 65535 < n) ∧
  (∀ n, assemble ⟨.ADDB, some n⟩ = none ↔ 255 < n) ∧
  (∀ n i, assemble ⟨.ADDW, some n⟩ = some i → (encode i).toNat = 0x02000000 + n) ∧
  (∀ n i, assemble ⟨.ADDB, some n⟩ = some i → (encode i).toNat = 0x08000000 + n) ∧
  (∀ m : Mnemonic, m.format = .N → (∀ n, assemble ⟨m, some n⟩ = none) ∧
    ∃ i, assemble ⟨m, none⟩ = some i ∧ i.mnemonic = m ∧ ∃ r ∈ opcodeTable, r.mnemonic = m ∧ encode i = r.matchBits)

/-- Outside a busy window, a CMD write with one of the 242 illegal opcodes records ILLOP, code 2, and does nothing else
(30_encoding.md R98). -/
def Obligations.IllegalOpcodeIsRefused : Prop :=
  ∀ (v : Word) (s : State), s.busy = false →
    ((0x0B ≤ v.toNat / 2 ^ 24 ∧ v.toNat / 2 ^ 24 ≤ 0x0F) ∨ 0x13 ≤ v.toNat / 2 ^ 24) →
    access (.write 0x0000C .word v) s =
      .next { s with response := some .ok, err := true, errcode := if s.err then s.errcode else 2 }

/-- Outside a busy window, a CMD write with a legal opcode and a nonzero reserved bit records RSVD, code 3, and does
nothing else (30_encoding.md R99). -/
def Obligations.ReservedBitsAreRefused : Prop :=
  ∀ (v : Word) (s : State), s.busy = false →
    ((v.toNat / 2 ^ 24 ∈ [0x00, 0x01, 0x03, 0x04, 0x05, 0x06, 0x07, 0x09, 0x0A, 0x10, 0x11, 0x12] ∧ v.toNat % 2 ^ 24 ≠ 0) ∨
      (v.toNat / 2 ^ 24 = 0x02 ∧ v.toNat / 2 ^ 16 % 2 ^ 8 ≠ 0) ∨
      (v.toNat / 2 ^ 24 = 0x08 ∧ v.toNat / 2 ^ 8 % 2 ^ 16 ≠ 0)) →
    access (.write 0x0000C .word v) s =
      .next { s with response := some .ok, err := true, errcode := if s.err then s.errcode else 3 }

/-! ## Running a command -/

/-- A CMD write of a word that decodes to a command runs the command's meaning, in every state, and answers `Ok`
(30_encoding.md R96). So does the state that `withFetchWord` makes. That a step takes the head of a schedule is the
model's choice (log 1, log 3). -/
def Obligations.CommandWriteRunsTheCommand : Prop :=
  (∀ (s : State) (w : Word) (i : Instr) (rest : List Event), s.schedule = cmdWrite w :: rest → decode w = .ok i →
    step s = exec i { s with schedule := rest, response := some .ok }) ∧
  (∀ (s : State) (w : Word) (i : Instr), decode w = .ok i →
    step (s.withFetchWord 32 w.toNat) = exec i { s with response := some .ok })

/-- A step performs the next event on the state without it; with no event left the engine has its turn
(20_memory.md R75). The schedule is the model's (log 1, log 2). A reset event gives the reset state
(70_reset_and_hazards.md R220); that it keeps the schedule and the draw counter and drops the answer is the model's choice
(log 12). -/
def Obligations.StepFollowsTheSchedule : Prop :=
  ∀ s : State,
    (∀ t rest, s.schedule = .host t :: rest → step s = access t { s with schedule := rest }) ∧
    (∀ rest, s.schedule = .engine :: rest → step s = engineTurn { s with schedule := rest }) ∧
    (∀ rest, s.schedule = .reset :: rest → step s = .next { State.reset with schedule := rest, draws := s.draws }) ∧
    (s.schedule = [] → step s = engineTurn s) ∧
    (s.busy = false → engineTurn s = .next s)

/-! ## Arithmetic -/

/-- Each iteration of the fold lowers the sum, and the fold has its closed form (40_checksum.md R113). -/
def Obligations.FoldHasItsClosedForm : Prop :=
  ∀ n : Nat,
    (0x10000 ≤ n → n % 0x10000 + n / 0x10000 < n ∧ fold n = fold (n % 0x10000 + n / 0x10000)) ∧
    (n < 0x10000 → fold n = n) ∧
    fold n = (if n = 0 then 0 else 1 + (n - 1) % 0xFFFF) ∧
    (1 ≤ n → 1 ≤ fold n ∧ fold n ≤ 0xFFFF ∧ fold n % 0xFFFF = n % 0xFFFF)

/-- The 16-bit end-around-carry accumulator ends with the fold of the exact sum, whatever the number of words, and two
lists of equal sum give equal results (40_checksum.md R114). -/
def Obligations.AccumulatorSumsAreFolds : Prop :=
  (∀ a w : Half, (eac16 a w).toNat = fold (a.toNat + w.toNat)) ∧
  (∀ (a : Half) (ws : List Half), (eacSum a ws).toNat = fold (a.toNat + wideSum ws)) ∧
  (∀ (a : Half) (ws vs : List Half), wideSum ws = wideSum vs → eacSum a ws = eacSum a vs) ∧
  (∀ a : Half, eac16 a 0 = a) ∧ (∀ w : Half, w ≠ 0 → eac16 0xFFFF w = w) ∧
  eac16 0x8000 0x8000 = 0x0001 ∧ eac16 0xFFFE 0x0001 = 0xFFFF

/-- Any order of the same additions, and of complete byte pairs from an empty byte stream, leaves the same state
(40_checksum.md R130). Each schedule is the CMD writes alone, with no other access between (log 1). -/
def Obligations.AdditionOrderDoesNotMatter : Prop :=
  (∀ (s : State) (l l' : List Instr), s.busy = false → l.Perm l' →
    (∀ i ∈ l, i = .addsa ∨ i = .addda ∨ i = .addports ∨ i = .addlen ∨ ∃ w, i = .addw w) →
    ∃ t, runsTo { s with schedule := l.map cmd } l.length t ∧ runsTo { s with schedule := l'.map cmd } l'.length t) ∧
  (∀ (s : State) (l l' : List (List Instr)), s.busy = false → s.stream.pend = false → l.Perm l' →
    (∀ g ∈ l, g = [.addsa] ∨ g = [.addda] ∨ g = [.addports] ∨ g = [.addlen] ∨ (∃ w, g = [.addw w]) ∨
      ∃ a b, g = [.addb a, .addb b]) →
    ∃ t, runsTo { s with schedule := l.flatten.map cmd } l.flatten.length t ∧
      runsTo { s with schedule := l'.flatten.map cmd } l'.flatten.length t)

/-! ## The immediate commands -/

/-- NOP changes nothing (40_checksum.md R118). -/
def Obligations.NopChangesNothing : Prop := CommandLaw 0x00000000 .nop (fun s => s)

/-- CLR zeroes ACC, PEND and PBYTE and changes nothing else (40_checksum.md R119). -/
def Obligations.ClrClearsTheStream : Prop :=
  CommandLaw 0x01000000 .clr (fun s => { s with stream := { acc := 0, pend := false, pbyte := 0 } })

/-- ADDW adds its word to ACC with end-around carry and changes nothing else; with a bit of 23:16 set its word is no
command (40_checksum.md R120). -/
def Obligations.AddwAddsItsWord : Prop :=
  (∀ imm : Half, CommandLaw (0x02000000 ||| imm.setWidth 32) (.addw imm)
    (fun s => { s with stream := { s.stream with acc := eac16 s.stream.acc imm } })) ∧
  ∀ v : Word, v.toNat / 2 ^ 24 = 0x02 → v.toNat / 2 ^ 16 % 2 ^ 8 ≠ 0 → decode v = .error .reservedBits

/-- ADDSA and ADDDA add the upper, then the lower half of their address and change nothing else
(40_checksum.md R121, R122). -/
def Obligations.AddressCommandsAddBothHalves : Prop :=
  CommandLaw 0x03000000 .addsa (fun s => { s with stream := { s.stream with
    acc := eac16 (eac16 s.stream.acc (BitVec.ofNat 16 (s.saddr.toNat / 65536))) (BitVec.ofNat 16 (s.saddr.toNat % 65536)) } }) ∧
  CommandLaw 0x04000000 .addda (fun s => { s with stream := { s.stream with
    acc := eac16 (eac16 s.stream.acc (BitVec.ofNat 16 (s.daddr.toNat / 65536))) (BitVec.ofNat 16 (s.daddr.toNat % 65536)) } })

/-- ADDPORTS adds the source, then the destination port, ADDLEN adds LEN as it stands, and neither changes anything
else (40_checksum.md R123, R124). -/
def Obligations.PortAndLengthCommandsAdd : Prop :=
  CommandLaw 0x05000000 .addports
    (fun s => { s with stream := { s.stream with acc := eac16 (eac16 s.stream.acc s.sport) s.dport } }) ∧
  CommandLaw 0x06000000 .addlen (fun s => { s with stream := { s.stream with acc := eac16 s.stream.acc s.len } })

/-- Each addition command leaves in ACC the fold of the exact sum of ACC and its words (40_checksum.md R111, R114, R120
to R124). -/
def Obligations.AdditionCommandsFoldTheirWords : Prop :=
  ∀ s : State, s.busy = false →
    let after := fun n : Nat =>
      { s with stream := { s.stream with acc := BitVec.ofNat 16 (fold (s.stream.acc.toNat + n)) } }
    (∀ imm : Half, exec (.addw imm) s = .next (after imm.toNat)) ∧
    exec .addsa s = .next (after (s.saddr.toNat / 65536 + s.saddr.toNat % 65536)) ∧
    exec .addda s = .next (after (s.daddr.toNat / 65536 + s.daddr.toNat % 65536)) ∧
    exec .addports s = .next (after (s.sport.toNat + s.dport.toNat)) ∧
    exec .addlen s = .next (after s.len.toNat)

/-- MKLEN writes the low 16 bits of 8 + PLEN to LEN and its carry to LOVF, and changes nothing else, SEGV included
(41_builder.md R151, 10_state.md R27). -/
def Obligations.MklenComputesTheLength : Prop :=
  CommandLaw 0x07000000 .mklen (fun s => { s with
    len := BitVec.ofNat 16 ((8 + s.plen.toNat) % 65536)
    lovf := decide (0xFFFF < 8 + s.plen.toNat) })

/-- ADDB makes a lone byte pending, or adds the pending byte and itself as one big-endian word; nothing else changes. With
a bit of 23:8 set its word is no command (40_checksum.md R125). -/
def Obligations.AddbFeedsOneByte : Prop :=
  (∀ imm : Byte, CommandLaw (0x08000000 ||| imm.setWidth 32) (.addb imm) (fun s => { s with stream :=
    if s.stream.pend = false then { acc := s.stream.acc, pend := true, pbyte := imm }
    else { acc := eac16 s.stream.acc (BitVec.ofNat 16 (s.stream.pbyte.toNat * 256 + imm.toNat)), pend := false, pbyte := 0 } })) ∧
  ∀ v : Word, v.toNat / 2 ^ 24 = 0x08 → v.toNat / 2 ^ 8 % 2 ^ 16 ≠ 0 → decode v = .error .reservedBits

/-- FLUSH adds a pending byte as the high byte of a zero-padded word and clears it; with none pending it does nothing
(40_checksum.md R117, R126). -/
def Obligations.FlushPadsTheOddByte : Prop :=
  CommandLaw 0x09000000 .flush (fun s => if s.stream.pend = false then s else { s with stream :=
    { acc := eac16 s.stream.acc (BitVec.ofNat 16 (s.stream.pbyte.toNat * 256)), pend := false, pbyte := 0 } })

/-- FIN flushes as FLUSH does, writes 0xFFFF − ACC to CSUM with no zero substitution, and clears SEGV; nothing else
changes (40_checksum.md R115, R127). -/
def Obligations.FinWritesTheComplement : Prop :=
  CommandLaw 0x0A000000 .fin (fun s =>
    let acc := if s.stream.pend = false then s.stream.acc
      else eac16 s.stream.acc (BitVec.ofNat 16 (s.stream.pbyte.toNat * 256))
    { s with
      stream := if s.stream.pend = false then s.stream else { acc := acc, pend := false, pbyte := 0 }
      csum := BitVec.ofNat 16 (0xFFFF - acc.toNat)
      segv := false })

/-! ## The long commands -/

/-- Each long command's CMD write sets BUSY and BUSY_OP and changes nothing else (40_checksum.md R128, 41_builder.md R152,
42_serializer.md R171). -/
def Obligations.LongCommandsAreAccepted : Prop :=
  CommandLaw 0x10000000 .addbuf (fun s => { s with busy := true, busyOp := some .addbuf }) ∧
  CommandLaw 0x11000000 .build (fun s => { s with busy := true, busyOp := some .build }) ∧
  CommandLaw 0x12000000 .ser (fun s => { s with busy := true, busyOp := some .ser })

/-- The byte-feed and flush procedures, and what they make of a byte list: feeding it and flushing adds exactly its payload
words, a byte already pending coming first (40_checksum.md R116, R117). -/
def Obligations.ByteStreamAddsPayloadWords : Prop :=
  (∀ (st : ByteStream) (b : Byte), st.feed b = if st.pend = false then { acc := st.acc, pend := true, pbyte := b }
    else { acc := eac16 st.acc (BitVec.ofNat 16 (st.pbyte.toNat * 256 + b.toNat)), pend := false, pbyte := 0 }) ∧
  (∀ st : ByteStream, st.flush = if st.pend = false then st
    else { acc := eac16 st.acc (BitVec.ofNat 16 (st.pbyte.toNat * 256)), pend := false, pbyte := 0 }) ∧
  (∀ (acc : Half) (pbyte : Byte) (P : List Byte),
    (({ acc := acc, pend := true, pbyte := pbyte } : ByteStream).feedAll P).flush =
      { acc := eacSum acc (payloadWords (pbyte :: P)), pend := false, pbyte := 0 }) ∧
  (∀ (acc : Half) (P : List Byte),
    (({ acc := acc, pend := false, pbyte := 0 } : ByteStream).feedAll P).flush =
      { acc := eacSum acc (payloadWords P), pend := false, pbyte := 0 })

/-- The completion of ADDBUF feeds PBUF[0 : PLEN) to the byte stream without flushing it, sets DONE and clears BUSY, and
changes nothing else but the draw counter, which stays where the payload was written (40_checksum.md R129). The pending
bit is the parity of the stream, and its words enter ACC when it is flushed. -/
def Obligations.AddbufCompletionFeedsThePayload : Prop :=
  ∀ s : State, s.busy = true → s.busyOp = some .addbuf →
    ∃ P st d, IsPayload s P ∧
      engineTurn s = .next { s with stream := st, draws := d, done := true, busy := false } ∧
      (PayloadWritten s → d = s.draws) ∧
      st = s.stream.feedAll P ∧
      st.pend = (s.stream.pend ^^ decide (s.plen.toNat % 2 = 1)) ∧
      st.flush.acc.toNat =
        fold (s.stream.acc.toNat + wideSum (payloadWords (if s.stream.pend then s.stream.pbyte :: P else P)))

/-- The completion of BUILD computes the length and the source's checksum, sets SEGV and DONE, clears BUSY and the
stream, and changes nothing else but the draw counter (41_builder.md R153). That CSUM is the source's checksum, ACC is not
0 and CSUM is not 0xFFFF is what follows for it (41_builder.md R155, 40_checksum.md R110). -/
def Obligations.BuildCompletionComputesTheChecksum : Prop :=
  ∀ s : State, s.busy = true → s.busyOp = some .build →
    ∃ P acc d, IsPayload s P ∧ (PayloadWritten s → d = s.draws) ∧
      engineTurn s = .next { s with
        len := BitVec.ofNat 16 ((8 + s.plen.toNat) % 65536)
        lovf := decide (0xFFFF < 8 + s.plen.toNat)
        stream := { acc := acc, pend := false, pbyte := 0 }
        csum := csumRef P s.sport s.dport s.saddr s.daddr
        segv := true, done := true, busy := false, draws := d } ∧
      acc.toNat = 0xFFFF - (csumRef P s.sport s.dport s.saddr s.daddr).toNat ∧
      acc ≠ 0 ∧ csumRef P s.sport s.dport s.saddr s.daddr ≠ 0xFFFF

/-- The completion of SER writes the wire image to OBUF with zeros after it, and 8 + PLEN untruncated to OLEN, sets DONE
and clears BUSY, and changes nothing else but the draw counter. Its first eight bytes are SPORT, DPORT, LEN and CSUM, the
high byte of each at the lower index, and every payload byte the host wrote follows them (42_serializer.md R170, R172,
R173). -/
def Obligations.SerCompletionWritesTheWireImage : Prop :=
  ∀ s : State, s.busy = true → s.busyOp = some .ser →
    ∃ P m d, IsPayload s P ∧ (PayloadWritten s → d = s.draws) ∧
      engineTurn s = .next { s with
        obuf := m, olen := BitVec.ofNat 17 (8 + s.plen.toNat), done := true, busy := false, draws := d } ∧
      (∀ k, k < 65544 → m.read k = some (((wireImage s.sport s.dport s.len s.csum P)[k]?).getD 0)) ∧
      (∀ k v, (k, v) ∈ [(0, s.sport), (2, s.dport), (4, s.len), (6, s.csum)] →
        m.read k = some (BitVec.ofNat 8 (v.toNat / 256)) ∧ m.read (k + 1) = some (BitVec.ofNat 8 (v.toNat % 256))) ∧
      (∀ k b, k < s.plen.toNat → s.pbuf.read k = some b → m.read (8 + k) = some b)

/-- BUILD then SER: OBUF holds the source's `serialize(build(…))`, header and payload (70_reset_and_hazards.md R223,
42_serializer.md R173, R175). Where a payload byte was never written, each of the two commands draws it. The statement
names one schedule, in which each command is followed at once by the engine's turn, and says nothing of others (log 1). -/
def Obligations.BuildThenSerGivesTheSegment : Prop :=
  ∀ (s : State) (rest : List Event), s.busy = false →
    s.schedule = cmdWrite 0x11000000 :: .engine :: cmdWrite 0x12000000 :: .engine :: rest →
    ∃ P Q t, IsPayload s P ∧ IsPayload s Q ∧ (PayloadWritten s → P = Q) ∧
      runsTo s 4 t ∧ t.schedule = rest ∧ t.busy = false ∧ t.done = true ∧ t.segv = true ∧
      t.olen.toNat = 8 + s.plen.toNat ∧ t.pbuf = s.pbuf ∧
      ∀ k, k < 65544 → t.obuf.read k = some (((wireImage s.sport s.dport
        (BitVec.ofNat 16 (8 + s.plen.toNat)) (csumRef P s.sport s.dport s.saddr s.daddr) Q)[k]?).getD 0)

/-- BUILDSEQ, whatever the number of polls, and BUILD leave the same LEN, LOVF, ACC, PEND, PBYTE and CSUM from the same
state, SEGV 0 after the one and 1 after the other (41_builder.md R154). That `wait_idle` is polls and then the engine's
turn is the model's reading (log 16). Each schedule is the one sequence alone, with no other access between (log 1). -/
def Obligations.BuildSequenceMatchesBuild : Prop :=
  ∀ (s : State) (polls : Nat), s.busy = false → PayloadWritten s →
    ∃ t u, runsTo { s with schedule := buildSeq polls } (polls + 12) t ∧
      runsTo { s with schedule := [cmd .build, .engine] } 2 u ∧
      t.len = u.len ∧ t.lovf = u.lovf ∧ t.stream = u.stream ∧ t.csum = u.csum ∧
      t.stream.pend = false ∧ t.stream.pbyte = 0 ∧ t.segv = false ∧ u.segv = true ∧ t.busy = false ∧ u.busy = false

/-- No command's CMD write depends on the free draws, and where the payload was written no completion step does
(40_checksum.md R131). -/
def Obligations.WrittenPayloadIsDeterministic : Prop :=
  (∀ (i : Instr) (s : State), ∃ t, exec i s = .next t ∧ ∀ d, exec i { s with draws := d } = .next { t with draws := d }) ∧
  ∀ s : State, CommandInProgress s → PayloadWritten s →
    ∃ t, engineTurn s = .next t ∧ ∀ d, engineTurn { s with draws := d } = .next { t with draws := d }

/-! ## The host port -/

/-- Outside a busy window every register reads as the table says, reserved offsets of the register region read as 0, and
a read changes nothing but the answer (20_memory.md R64). -/
def Obligations.RegisterReadTable : Prop :=
  ∀ s : State, s.busy = false →
    let reads := fun (off : Offset) (n : Nat) =>
      access (.read off .word) s = .next { s with response := some (.data (BitVec.ofNat 32 n)) }
    reads 0x000 0x55445001 ∧
    reads 0x004 (2 * s.ieErr.toNat + s.ieDone.toNat) ∧
    reads 0x008 (256 * s.errcode.toNat + 32 * s.segv.toNat + 16 * s.stream.pend.toNat + 8 * s.lovf.toNat
      + 4 * s.err.toNat + 2 * s.done.toNat + s.busy.toNat) ∧
    reads 0x00C 0 ∧
    reads 0x010 (65536 * s.sport.toNat + s.dport.toNat) ∧
    reads 0x014 s.saddr.toNat ∧
    reads 0x018 s.daddr.toNat ∧
    reads 0x01C s.plen.toNat ∧
    reads 0x020 s.len.toNat ∧
    reads 0x024 s.csum.toNat ∧
    reads 0x028 s.stream.acc.toNat ∧
    reads 0x02C s.stream.pbyte.toNat ∧
    reads 0x030 s.olen.toNat ∧
    ∀ off : Offset, off.toNat % 4 = 0 → 0x34 ≤ off.toNat → off.toNat < 0x10000 → reads off 0

/-- In a busy window a field in the running command's write set reads as a free draw of its width and every other field
reads exactly (10_state.md R44, 20_memory.md R76). The order of the draws within STATUS is the model's (log 6). -/
def Obligations.BusyWindowReadsAreDraws : Prop :=
  ∀ (s : State) (op : LongOp), s.busy = true → s.busyOp = some op →
    let reads := fun (off : Offset) (v : Word) (n : Nat) =>
      access (.read off .word) s = .next { s with response := some (.data v), draws := s.draws + n }
    let status := fun lovf pend segv : Nat => BitVec.ofNat 32 (256 * s.errcode.toNat + 32 * segv + 16 * pend + 8 * lovf
      + 4 * s.err.toNat + 2 * s.done.toNat + 1)
    let draw := fun w k : Nat => (Config.freeDraw w (s.draws + k)).toNat
    (op = .addbuf → reads 0x008 (status s.lovf.toNat (draw 1 0) s.segv.toNat) 1) ∧
    (op = .build → reads 0x008 (status (draw 1 0) (draw 1 1) (draw 1 2)) 3) ∧
    (op = .ser → reads 0x008 (status s.lovf.toNat s.stream.pend.toNat s.segv.toNat) 0) ∧
    (op = .build → reads 0x020 (BitVec.ofNat 32 (draw 16 0)) 1 ∧ reads 0x024 (BitVec.ofNat 32 (draw 16 0)) 1) ∧
    (op ≠ .build → reads 0x020 (s.len.setWidth 32) 0 ∧ reads 0x024 (s.csum.setWidth 32) 0) ∧
    (op ≠ .ser → reads 0x028 (BitVec.ofNat 32 (draw 16 0)) 1 ∧ reads 0x02C (BitVec.ofNat 32 (draw 8 0)) 1) ∧
    (op = .ser → reads 0x028 (s.stream.acc.setWidth 32) 0 ∧ reads 0x02C (s.stream.pbyte.setWidth 32) 0) ∧
    (op = .ser → reads 0x030 (BitVec.ofNat 32 (draw 17 0)) 1) ∧
    (op ≠ .ser → reads 0x030 (s.olen.setWidth 32) 0) ∧
    (op = .ser → ∀ off : Offset, off.toNat % 4 = 0 → 0x20000 ≤ off.toNat → off.toNat < 0x30008 →
      reads off (BitVec.ofNat 32 (draw 32 0)) 1) ∧
    reads 0x000 0x55445001 0 ∧ reads 0x004 (BitVec.ofNat 32 (2 * s.ieErr.toNat + s.ieDone.toNat)) 0 ∧ reads 0x00C 0 0 ∧
    reads 0x010 (BitVec.ofNat 32 (65536 * s.sport.toNat + s.dport.toNat)) 0 ∧
    reads 0x014 s.saddr 0 ∧ reads 0x018 s.daddr 0 ∧ reads 0x01C (s.plen.setWidth 32) 0

/-- A read of a window word returns its four bytes, the lowest index in bits 31:24, each the byte written or a draw of its
own. PBUF reads so always, OBUF unless SER is in progress (20_memory.md R67, R69, R72). That the bytes not written are
drawn in rising index order is the model's choice (log 6). -/
def Obligations.WindowReadsAreBigEndian : Prop :=
  ∀ (s : State) (off : Offset), off.toNat % 4 = 0 →
    let reads := fun (m : Memory) (k : Nat) => ∃ b0 b1 b2 b3 d0 d1 d2 d3,
      ByteSeen m k s.draws b0 d0 ∧ ByteSeen m (k + 1) d0 b1 d1 ∧ ByteSeen m (k + 2) d1 b2 d2 ∧ ByteSeen m (k + 3) d2 b3 d3 ∧
      access (.read off .word) s = .next { s with
        response := some (.data (BitVec.ofNat 32 (16777216 * b0.toNat + 65536 * b1.toNat + 256 * b2.toNat + b3.toNat)))
        draws := d3 }
    (0x10000 ≤ off.toNat → off.toNat < 0x20000 → reads s.pbuf (off.toNat - 0x10000)) ∧
    (0x20000 ≤ off.toNat → off.toNat < 0x30008 → ¬(s.busy = true ∧ s.busyOp = some .ser) →
      reads s.obuf (off.toNat - 0x20000))

/-- What a write to each register does, in a busy window and outside one (20_memory.md R65). -/
def Obligations.RegisterWriteTable : Prop :=
  ∀ (s : State) (v : Word),
    let answered := { s with response := some .ok }
    let refused := fun code : BitVec 4 =>
      { answered with err := true, errcode := if s.err then s.errcode else code }
    let writes := fun (off : Offset) (t : State) => access (.write off .word v) s = .next t
    writes 0x004 { answered with ieDone := decide (v.toNat % 2 = 1), ieErr := decide (v.toNat / 2 % 2 = 1) } ∧
    writes 0x008 { answered with
      done := if v.toNat / 2 % 2 = 1 then false else s.done
      err := if v.toNat / 4 % 2 = 1 then false else s.err
      errcode := if v.toNat / 4 % 2 = 1 then 0 else s.errcode } ∧
    access (.write 0x00C .word v) s = issueCommand v answered ∧
    writes 0x010 (if s.busy then refused 1 else { answered with
      sport := BitVec.ofNat 16 (v.toNat / 65536), dport := BitVec.ofNat 16 (v.toNat % 65536), segv := false }) ∧
    writes 0x014 (if s.busy then refused 1 else { answered with saddr := v, segv := false }) ∧
    writes 0x018 (if s.busy then refused 1 else { answered with daddr := v, segv := false }) ∧
    writes 0x01C (if s.busy then refused 1 else if 65536 ≤ v.toNat then refused 4
      else { answered with plen := BitVec.ofNat 16 v.toNat, segv := false }) ∧
    ∀ off : Offset, off.toNat % 4 = 0 → off.toNat < 0x10000 →
      off.toNat ∉ [0x004, 0x008, 0x00C, 0x010, 0x014, 0x018, 0x01C] → writes off answered

/-- In a busy window every CMD write, whatever its word, every write to an input register and every PBUF write is dropped
with Error(BUSY), code 1, and the running command goes on unaffected. CTRL and STATUS writes are not refused: they have
the effect they have outside one (60_exceptions.md R192). -/
def Obligations.BusyWindowRefusesWrites : Prop :=
  ∀ (s : State) (v : Word), s.busy = true →
    (∀ off : Offset, off.toNat % 4 = 0 →
      (off.toNat ∈ [0x00C, 0x010, 0x014, 0x018, 0x01C] ∨ (0x10000 ≤ off.toNat ∧ off.toNat < 0x20000)) →
      access (.write off .word v) s =
        .next { s with response := some .ok, err := true, errcode := if s.err then s.errcode else 1 }) ∧
    access (.write 0x004 .word v) s = .next { s with
      response := some .ok
      ieDone := decide (v.toNat % 2 = 1)
      ieErr := decide (v.toNat / 2 % 2 = 1) } ∧
    access (.write 0x008 .word v) s = .next { s with
      response := some .ok
      done := if v.toNat / 2 % 2 = 1 then false else s.done
      err := if v.toNat / 4 % 2 = 1 then false else s.err
      errcode := if v.toNat / 4 % 2 = 1 then 0 else s.errcode }

/-- A PBUF write is refused with Error(BUSY), code 1, in every busy window. An accepted one stores its four bytes, the highest
at the lowest index, clears SEGV, leaves every other byte and everything else as it was, and is read back
(20_memory.md R68). -/
def Obligations.PbufWriteThenRead : Prop :=
  ∀ (s : State) (v : Word) (off : Offset), off.toNat % 4 = 0 → 0x10000 ≤ off.toNat → off.toNat < 0x20000 →
    (s.busy = true → access (.write off .word v) s =
      .next { s with response := some .ok, err := true, errcode := if s.err then s.errcode else 1 }) ∧
    (s.busy = false → ∃ m, access (.write off .word v) s = .next { s with response := some .ok, pbuf := m, segv := false } ∧
      m.read (off.toNat - 0x10000) = some (BitVec.ofNat 8 (v.toNat / 16777216)) ∧
      m.read (off.toNat - 0x10000 + 1) = some (BitVec.ofNat 8 (v.toNat / 65536)) ∧
      m.read (off.toNat - 0x10000 + 2) = some (BitVec.ofNat 8 (v.toNat / 256)) ∧
      m.read (off.toNat - 0x10000 + 3) = some (BitVec.ofNat 8 v.toNat) ∧
      (∀ a, (a < off.toNat - 0x10000 ∨ off.toNat - 0x10000 + 4 ≤ a) → m.read a = s.pbuf.read a) ∧
      ∀ t : State, t.pbuf = m → access (.read off .word) t = .next { t with response := some (.data v) })

/-- Reserved offsets of the register region and of the OBUF window read as 0, ignore writes and answer `Ok`
(20_memory.md R70). -/
def Obligations.ReservedOffsetsReadZero : Prop :=
  ∀ (s : State) (off : Offset) (v : Word), off.toNat % 4 = 0 →
    ((0x00034 ≤ off.toNat ∧ off.toNat < 0x10000) ∨ 0x30008 ≤ off.toNat) →
    access (.read off .word) s = .next { s with response := some (.data 0) } ∧
    access (.write off .word v) s = .next { s with response := some .ok }

/-- A write to a read-only register or to the OBUF window is ignored without error (20_memory.md R65, R69). -/
def Obligations.ReadOnlyWritesAreIgnored : Prop :=
  ∀ (s : State) (off : Offset) (v : Word), off.toNat % 4 = 0 →
    (off.toNat ∈ [0x000, 0x020, 0x024, 0x028, 0x02C, 0x030] ∨ (0x20000 ≤ off.toNat ∧ off.toNat < 0x30008)) →
    access (.write off .word v) s = .next { s with response := some .ok }

/-- A narrow or misaligned access gets `busErr` in every region, and no other access does (20_memory.md R63, R66). That
`busErr` stops the step is the reading of R66 in log 4. -/
def Obligations.NarrowOrMisalignedIsABusError : Prop :=
  ∀ (s : State) (off : Offset) (size : AccessSize) (v : Word),
    ((size ≠ .word ∨ off.toNat % 4 ≠ 0) →
      access (.read off size) s = .fault .busErr ∧ access (.write off size v) s = .fault .busErr) ∧
    (size = .word → off.toNat % 4 = 0 →
      (∃ t, access (.read off size) s = .next t) ∧ ∃ t, access (.write off size v) s = .next t)

/-- No read has a side effect: only the answer and the draw counter change (20_memory.md R74). -/
def Obligations.ReadsHaveNoSideEffects : Prop :=
  ∀ (s : State) (off : Offset), off.toNat % 4 = 0 →
    ∃ v d, access (.read off .word) s = .next { s with response := some (.data v), draws := d } ∧ s.draws ≤ d ∧ d ≤ s.draws + 4

/-- BASE is a multiple of 256 KiB, the 256 KiB from it are the block's offsets, and no other address is decoded
(00_scope.md R8, 20_memory.md R60, R61). -/
def Obligations.BaseWindowDecodes : Prop :=
  Config.base % 0x40000 = 0 ∧ (∀ off : Offset, offsetOf (Config.base + off.toNat) = some off) ∧
  ∀ addr, addr < Config.base ∨ Config.base + 0x40000 ≤ addr → offsetOf addr = none

/-! ## Errors, the interrupt, reset -/

/-- Recording an error keeps the first code since the last clear, sets ERR and changes nothing else; a STATUS write with
bit 2 set and a reset clear both (60_exceptions.md R191, R195). -/
def Obligations.ErrorKeepsTheFirstCode : Prop :=
  (∀ (s : State) (e : ErrorCode), s.raiseError e = { s with
    err := true
    errcode := if s.err then s.errcode else match e with | .busy => 1 | .illop => 2 | .rsvd => 3 | .range => 4 }) ∧
  (∀ (s : State) (v : Word), v.toNat / 4 % 2 = 1 →
    ∃ t, access (.write 0x008 .word v) s = .next t ∧ t.err = false ∧ t.errcode = 0) ∧
  (∀ s : State, ∃ t, perform .reset s = .next t ∧ t.err = false ∧ t.errcode = 0)

/-- IRQ is high exactly while an enabled cause is set (10_state.md R42, 60_exceptions.md R199). -/
def Obligations.InterruptFollowsEnabledCauses : Prop :=
  ∀ s : State, s.irq = true ↔ (s.done = true ∧ s.ieDone = true) ∨ (s.err = true ∧ s.ieErr = true)

/-- A reset from any state, in a busy window too, and the state after reset have the values of the reset table, and every
byte of both buffers is unspecified (10_state.md R45, 70_reset_and_hazards.md R220, R221). -/
def Obligations.ResetGivesTheTable : Prop :=
  ∀ (s t : State), (perform .reset s = .next t ∨ t = State.reset) →
    t.ieDone = false ∧ t.ieErr = false ∧ t.busy = false ∧ t.done = false ∧ t.err = false ∧ t.lovf = false ∧
    t.stream.pend = false ∧ t.segv = false ∧ t.errcode = 0 ∧ t.sport = 0 ∧ t.dport = 0 ∧ t.saddr = 0 ∧ t.daddr = 0 ∧
    t.plen = 0 ∧ t.len = 0 ∧ t.csum = 0 ∧ t.stream.acc = 0 ∧ t.stream.pbyte = 0 ∧ t.olen = 0 ∧ t.busyOp = none ∧
    (∀ k, t.pbuf.read k = none) ∧ (∀ k, t.obuf.read k = none) ∧ t.irq = false ∧
    access (.read 0x000 .word) t = .next { t with response := some (.data 0x55445001) }

/-! ## Whole-machine rules -/

/-- The state after reset meets the invariant, and its segment is valid in the sense of SEGV (10_state.md R28, R45). -/
def Obligations.ResetMeetsTheInvariant : Prop := Inv State.reset ∧ SegmentValid State.reset ∧ SafeSchedule State.reset

/-- Every step keeps the invariant: the buffers' canonical form and sizes, ERRCODE at most 4 and 0 exactly while ERR = 0,
PBYTE 0 while PEND = 0, the ranges of LEN and OLEN, and a command in BUSY_OP while BUSY = 1
(10_state.md R26, R29, R38 to R41; 60_exceptions.md R195). -/
def Obligations.StepKeepsTheInvariant : Prop := ∀ s t : State, Inv s → step s = .next t → Inv t

/-- Every step keeps what SEGV = 1 means: LEN and CSUM are those of a build from the present inputs
(10_state.md R28). -/
def Obligations.StepKeepsSegmentValid : Prop := ∀ s t : State, SegmentValid s → step s = .next t → SegmentValid t

/-- After MKLEN or BUILD, LEN is (8 + PLEN)[15:0] until the next accepted PLEN write (41_builder.md R157), or the next
reset, which R157 does not speak of. -/
def Obligations.LengthHoldsUntilAPlenWrite : Prop :=
  ∀ s t : State, step s = .next t →
    (CommandIssued s .mklen ∨ Completes s .build → LengthCurrent t) ∧
    (LengthCurrent s → ¬ResetNext s →
      ¬(s.busy = false ∧ ∃ v rest, s.schedule = .host (.write 0x0001C .word v) :: rest ∧ v.toNat < 65536) →
      LengthCurrent t)

/-- BUSY is set by the acceptance of a long command and by nothing else, and cleared by its completion, by reset, and by
nothing else (10_state.md R24). -/
def Obligations.BusyIsSetAndClearedByItsRules : Prop :=
  ∀ s t : State, step s = .next t →
    (∀ i, CommandIssued s i → t.busy = i.isLong) ∧
    (((∃ op, Completes s op) ∨ ResetNext s) → t.busy = false) ∧
    (s.busy = false → t.busy = true → ∃ i, i.isLong = true ∧ CommandIssued s i) ∧
    (s.busy = true → t.busy = false → ResetNext s ∨ ∃ op, Completes s op)

/-- DONE is set by every completion and by nothing else, and cleared by a STATUS write with bit 1 set, by reset, and by
nothing else (10_state.md R25). -/
def Obligations.DoneIsSetByCompletionsOnly : Prop :=
  ∀ s t : State, step s = .next t →
    ((∃ op, Completes s op) → t.done = true ∧ t.busy = false) ∧
    (s.done = false → t.done = true → ∃ op, Completes s op) ∧
    ((ResetNext s ∨ ∃ v rest, s.schedule = .host (.write 0x00008 .word v) :: rest ∧ v.toNat / 2 % 2 = 1) → t.done = false) ∧
    (s.done = true → t.done = false →
      ResetNext s ∨ ∃ v rest, s.schedule = .host (.write 0x00008 .word v) :: rest ∧ v.toNat / 2 % 2 = 1)

/-- LEN and LOVF change only by MKLEN and the completion of BUILD, CSUM only by FIN and that completion, OLEN and OBUF only
by the completion of SER; reset apart (10_state.md R27, R34, R35, R38, R41). -/
def Obligations.ResultRegistersHaveTheirWriters : Prop :=
  ∀ s t : State, step s = .next t → ¬ResetNext s →
    ((t.len ≠ s.len ∨ t.lovf ≠ s.lovf) → CommandIssued s .mklen ∨ Completes s .build) ∧
    (t.csum ≠ s.csum → CommandIssued s .fin ∨ Completes s .build) ∧
    ((t.olen ≠ s.olen ∨ t.obuf ≠ s.obuf) → Completes s .ser)

/-- In a busy window no step but a reset changes an input of the running command, or the command
(60_exceptions.md R192; 92_eei_decisions.md D10). -/
def Obligations.InputsAreFrozenInTheBusyWindow : Prop :=
  ∀ s t : State, s.busy = true → step s = .next t → ¬ResetNext s →
    t.sport = s.sport ∧ t.dport = s.dport ∧ t.saddr = s.saddr ∧ t.daddr = s.daddr ∧ t.plen = s.plen ∧ t.pbuf = s.pbuf ∧
    t.busyOp = s.busyOp ∧ (t.busy = true → t.stream = s.stream ∧ t.segv = s.segv)

/-- A long command in progress is over within one step more than the events still to come (60_exceptions.md R204). That the
engine has its turn when no event is left is how the model realises weak fairness (log 2). -/
def Obligations.EngineCompletesEventually : Prop :=
  ∀ s : State, s.busy = true → CommandInProgress s → SafeSchedule s →
    ∃ k t, k ≤ s.schedule.length + 1 ∧ runsTo s k t ∧ t.busy = false

/-- Where every access to come is aligned and 4 bytes wide, no step stops, and that goes on: every command word, every
error and every register value has a next state (60_exceptions.md R190, 20_memory.md R63). -/
def Obligations.SafeScheduleNeverStops : Prop :=
  ∀ s : State, CommandInProgress s → SafeSchedule s →
    ∃ t, step s = .next t ∧ CommandInProgress t ∧ SafeSchedule t
end

