-- ==== Sys2Proof/Laws/Arith.lean ====
section
/-! SUPPORT. The arithmetic helpers as natural numbers. -/

namespace Sys2Proof.Machine

/-- The end-around-carry sum: the low 16 bits of the exact sum plus its carry. -/
theorem eac16_toNat (a w : Half) :
    (eac16 a w).toNat = (a.toNat + w.toNat) % 65536 + (a.toNat + w.toNat) / 65536 := by
  have ha := a.isLt
  have hw := w.isLt
  have h17 : (a.setWidth 17 + w.setWidth 17).toNat = a.toNat + w.toNat := by
    simp only [BitVec.toNat_add, BitVec.toNat_setWidth]
    omega
  simp only [eac16, BitVec.toNat_add, BitVec.extractLsb'_toNat, BitVec.toNat_setWidth, Nat.shiftRight_eq_div_pow] at h17 ⊢
  rw [h17]
  rcases Nat.lt_or_ge (a.toNat + w.toNat) 65536 with h | h
  · rw [show (a.toNat + w.toNat) / 2 ^ 16 = 0 by omega, show (a.toNat + w.toNat) / 65536 = 0 by omega]
    omega
  · rw [show (a.toNat + w.toNat) / 2 ^ 16 = 1 by omega, show (a.toNat + w.toNat) / 65536 = 1 by omega]
    omega

@[simp] theorem eacSum_nil (a : Half) : eacSum a [] = a := rfl
@[simp] theorem eacSum_cons (a w : Half) (ws : List Half) : eacSum a (w :: ws) = eacSum (eac16 a w) ws := rfl
@[simp] theorem eacSum_append (a : Half) (ws vs : List Half) : eacSum a (ws ++ vs) = eacSum (eacSum a ws) vs := by
  simp [eacSum]

@[simp] theorem wideSum_nil : wideSum [] = 0 := rfl
@[simp] theorem wideSum_cons (w : Half) (ws : List Half) : wideSum (w :: ws) = w.toNat + wideSum ws := by
  simp [wideSum]
@[simp] theorem wideSum_append (ws vs : List Half) : wideSum (ws ++ vs) = wideSum ws + wideSum vs := by
  simp [wideSum]

theorem be16_toNat (b0 b1 : Byte) : (be16 b0 b1).toNat = b0.toNat * 256 + b1.toNat := by
  have := b1.isLt
  rw [be16, BitVec.toNat_append, ← Nat.shiftLeft_add_eq_or_of_lt this, Nat.shiftLeft_eq]

theorem hiHalf_toNat (v : Word) : (hiHalf v).toNat = v.toNat / 65536 := by
  have := v.isLt
  simp only [hiHalf, BitVec.extractLsb'_toNat, Nat.shiftRight_eq_div_pow]
  omega

theorem loHalf_toNat (v : Word) : (loHalf v).toNat = v.toNat % 65536 := by
  simp [loHalf, BitVec.extractLsb'_toNat]

theorem totalLength_toNat (plen : Half) : (totalLength plen).toNat = 8 + plen.toNat := by
  have := plen.isLt
  simp only [totalLength, hdrBytes, BitVec.toNat_add, BitVec.toNat_setWidth, BitVec.toNat_ofNat]
  omega

theorem lengthField_toNat (plen : Half) : (lengthField plen).toNat = (8 + plen.toNat) % 65536 := by
  simp [lengthField, BitVec.extractLsb'_toNat, totalLength_toNat]

theorem lengthOverflow_iff (plen : Half) : lengthOverflow plen = true ↔ 0xFFFF < 8 + plen.toNat := by
  have := plen.isLt
  rw [lengthOverflow, BitVec.getLsbD, Nat.testBit_eq_decide_div_mod_eq, totalLength_toNat]
  simp only [decide_eq_true_eq]
  omega

/-- A sum below 2^16 needs no fold. -/
theorem fold_of_lt {s : Nat} (h : s < 65536) : fold s = s := by
  unfold fold
  cases s with
  | zero => rfl
  | succ n => rw [foldLoop, if_neg (by omega)]

end Sys2Proof.Machine
end

