-- ==== Sys2Proof/Laws/Memory.lean ====
section
/-! SUPPORT. The laws of buffers: read after write, the canonical form and the size bound kept by every operation,
and what a filled image reads as. -/

namespace Sys2Proof.Machine

/-! ## Lists of cells -/

@[simp] theorem findCell_nil (a : Nat) : findCell a [] = none := rfl

theorem findCell_insertCell_same (a : Nat) (b : Byte) (cs : List Host.Cell) :
    findCell a (insertCell a b cs) = some b := by
  induction cs with
  | nil => simp [insertCell, findCell]
  | cons c t ih =>
    obtain ⟨k, x⟩ := c
    by_cases h1 : a < k
    · simp [insertCell, findCell, h1]
    · by_cases h2 : k = a
      · simp [insertCell, findCell, h2]
      · simp [insertCell, findCell, h1, h2, ih]

theorem findCell_insertCell_other {a a' : Nat} (h : a' ≠ a) (b : Byte) (cs : List Host.Cell) :
    findCell a' (insertCell a b cs) = findCell a' cs := by
  induction cs with
  | nil => simp [insertCell, findCell, h.symm]
  | cons c t ih =>
    obtain ⟨k, x⟩ := c
    by_cases h1 : a < k
    · simp [insertCell, findCell, h1, h.symm]
    · by_cases h2 : k = a
      · subst h2; simp [insertCell, findCell, h.symm]
      · simp [insertCell, findCell, h1, h2, ih]

theorem findCell_eraseCell_same (a : Nat) (cs : List Host.Cell) : findCell a (eraseCell a cs) = none := by
  induction cs with
  | nil => rfl
  | cons c t ih =>
    obtain ⟨k, x⟩ := c
    by_cases h : k = a
    · simpa [eraseCell, h] using ih
    · simpa [eraseCell, h, findCell] using ih

theorem findCell_eraseCell_other {a a' : Nat} (h : a' ≠ a) (cs : List Host.Cell) :
    findCell a' (eraseCell a cs) = findCell a' cs := by
  induction cs with
  | nil => rfl
  | cons c t ih =>
    obtain ⟨k, x⟩ := c
    by_cases hk : k = a
    · subst hk; simpa [eraseCell, findCell, h.symm] using ih
    · by_cases hk' : k = a'
      · subst hk'; simp [eraseCell, findCell, hk]
      · simpa [eraseCell, findCell, hk, hk'] using ih

theorem cellsRising_mono {lo lo' : Nat} (h : lo ≤ lo') {cs : List Host.Cell} (hr : cellsRising lo' cs = true) :
    cellsRising lo cs = true := by
  cases cs with
  | nil => rfl
  | cons c t =>
    obtain ⟨k, x⟩ := c
    simp only [cellsRising, Bool.and_eq_true, decide_eq_true_eq] at hr ⊢
    exact ⟨h.trans hr.1, hr.2⟩

theorem cellsRising_insertCell {lo a : Nat} (b : Byte) (h : lo ≤ a) {cs : List Host.Cell}
    (hr : cellsRising lo cs = true) : cellsRising lo (insertCell a b cs) = true := by
  induction cs generalizing lo with
  | nil => simp [insertCell, cellsRising, h]
  | cons c t ih =>
    obtain ⟨k, x⟩ := c
    simp only [cellsRising, Bool.and_eq_true, decide_eq_true_eq] at hr
    by_cases h1 : a < k
    · simp [insertCell, cellsRising, h1, h, hr.2, Nat.succ_le_of_lt h1]
    · by_cases h2 : k = a
      · subst h2; simp [insertCell, cellsRising, h, hr.2]
      · have h3 : k + 1 ≤ a := by omega
        simp [insertCell, h1, h2, cellsRising, hr.1, ih h3 hr.2]

theorem cellsRising_eraseCell {lo : Nat} (a : Nat) {cs : List Host.Cell} (hr : cellsRising lo cs = true) :
    cellsRising lo (eraseCell a cs) = true := by
  induction cs generalizing lo with
  | nil => rfl
  | cons c t ih =>
    obtain ⟨k, x⟩ := c
    simp only [cellsRising, Bool.and_eq_true, decide_eq_true_eq] at hr
    by_cases h : k = a
    · have := ih hr.2
      simpa [eraseCell, h] using cellsRising_mono (show lo ≤ k + 1 by omega) this
    · have := ih hr.2
      simpa [eraseCell, h, cellsRising, hr.1] using this

theorem mem_insertCell {a : Nat} {b : Byte} {cs : List Host.Cell} {c : Host.Cell} (h : c ∈ insertCell a b cs) :
    c = (a, b) ∨ c ∈ cs := by
  induction cs with
  | nil => simpa [insertCell] using h
  | cons d t ih =>
    obtain ⟨k, x⟩ := d
    by_cases h1 : a < k
    · simpa [insertCell, h1] using h
    · by_cases h2 : k = a
      · rw [insertCell, if_neg h1, if_pos h2] at h
        rcases List.mem_cons.1 h with h | h
        · exact .inl h
        · exact .inr (List.mem_cons_of_mem _ h)
      · rw [insertCell, if_neg h1, if_neg h2] at h
        rcases List.mem_cons.1 h with h | h
        · exact .inr (h ▸ List.mem_cons_self)
        · exact (ih h).imp id (List.mem_cons_of_mem _)

theorem mem_eraseCell {a : Nat} {cs : List Host.Cell} {c : Host.Cell} (h : c ∈ eraseCell a cs) : c ∈ cs :=
  (List.mem_filter.1 h).1

/-! ## One byte -/

@[simp] theorem Memory.unlisted_write (m : Memory) (a : Nat) (b : Byte) : (m.write a b).unlisted = m.unlisted := by
  unfold Memory.write; split <;> rfl

/-- A read after a write to the same address gives the value written. -/
@[simp] theorem Memory.read_write_same (m : Memory) (a : Nat) (b : Byte) : (m.write a b).read a = some b := by
  unfold Memory.write
  split
  · next h => simp [Memory.read, findCell_eraseCell_same, h]
  · simp [Memory.read, findCell_insertCell_same]

/-- A write leaves every other address alone. -/
theorem Memory.read_write_other (m : Memory) {a a' : Nat} (h : a' ≠ a) (b : Byte) :
    (m.write a b).read a' = m.read a' := by
  unfold Memory.write
  split
  · simp [Memory.read, findCell_eraseCell_other h]
  · simp [Memory.read, findCell_insertCell_other h]

/-- A write keeps the canonical form. -/
theorem Memory.wf_write {m : Memory} (h : m.wf = true) (a : Nat) (b : Byte) : (m.write a b).wf = true := by
  simp only [Memory.wf, Bool.and_eq_true, List.all_eq_true, decide_eq_true_eq] at h ⊢
  rw [Memory.unlisted_write]
  unfold Memory.write
  split
  · exact ⟨cellsRising_eraseCell a h.1, fun c hc => h.2 c (mem_eraseCell hc)⟩
  · next hne =>
    refine ⟨cellsRising_insertCell b (Nat.zero_le a) h.1, fun c hc => ?_⟩
    rcases mem_insertCell hc with rfl | hc
    · exact hne
    · exact h.2 c hc

/-- A write inside the buffer keeps the size bound. -/
theorem Memory.within_write {m : Memory} {n a : Nat} (h : m.within n = true) (ha : a < n) (b : Byte) :
    (m.write a b).within n = true := by
  simp only [Memory.within, List.all_eq_true, decide_eq_true_eq] at h ⊢
  unfold Memory.write
  split
  · exact fun c hc => h c (mem_eraseCell hc)
  · intro c hc
    rcases mem_insertCell hc with rfl | hc
    · exact ha
    · exact h c hc

/-! ## Several bytes -/

@[simp] theorem Memory.unlisted_writeBytes (m : Memory) (a : Nat) (bs : List Byte) :
    (m.writeBytes a bs).unlisted = m.unlisted := by
  induction bs generalizing m a with
  | nil => rfl
  | cons b bs ih => simp [Memory.writeBytes, ih]

/-- An address outside the bytes written reads as before. -/
theorem Memory.read_writeBytes_other (m : Memory) (a : Nat) (bs : List Byte) {a' : Nat}
    (h : a' < a ∨ a + bs.length ≤ a') : (m.writeBytes a bs).read a' = m.read a' := by
  induction bs generalizing m a with
  | nil => rfl
  | cons b bs ih =>
    simp only [List.length_cons] at h
    rw [Memory.writeBytes, ih _ _ (by omega), Memory.read_write_other _ (by omega)]

/-- The `k`-th byte written is what its address reads as. -/
theorem Memory.read_writeBytes_same (m : Memory) (a : Nat) (bs : List Byte) {k : Nat} (h : k < bs.length) :
    (m.writeBytes a bs).read (a + k) = some bs[k] := by
  induction bs generalizing m a k with
  | nil => simp at h
  | cons b bs ih =>
    cases k with
    | zero => rw [Memory.writeBytes, Memory.read_writeBytes_other _ _ _ (by omega)]; simp
    | succ k =>
      have hk : k < bs.length := by simpa using h
      have := ih (m.write a b) (a + 1) hk
      rw [Memory.writeBytes, show a + (k + 1) = a + 1 + k by omega, this]
      simp

theorem Memory.wf_writeBytes {m : Memory} (h : m.wf = true) (a : Nat) (bs : List Byte) :
    (m.writeBytes a bs).wf = true := by
  induction bs generalizing m a with
  | nil => exact h
  | cons b bs ih => exact ih (Memory.wf_write h a b) (a + 1)

theorem Memory.within_writeBytes {m : Memory} {n a : Nat} (h : m.within n = true) {bs : List Byte}
    (ha : a + bs.length ≤ n) : (m.writeBytes a bs).within n = true := by
  induction bs generalizing m a with
  | nil => exact h
  | cons b bs ih =>
    simp only [List.length_cons] at ha
    exact ih (Memory.within_write h (by omega) b) (by omega)

/-! ## A filled image -/

theorem imageCells_cons_of_ne {b : Byte} (h : b ≠ 0) (a : Nat) (bs : List Byte) :
    imageCells a (b :: bs) = (a, b) :: imageCells (a + 1) bs := if_neg h

theorem findCell_imageCells_below {a k : Nat} (bs : List Byte) (h : k < a) : findCell k (imageCells a bs) = none := by
  induction bs generalizing a with
  | nil => rfl
  | cons b bs ih =>
    have h' := ih (show k < a + 1 by omega)
    by_cases hb : b = 0
    · simpa [imageCells, hb] using h'
    · have : a ≠ k := by omega
      simpa [imageCells_cons_of_ne hb, findCell, this] using h'

theorem findCell_imageCells (a k : Nat) (bs : List Byte) :
    (findCell (a + k) (imageCells a bs)).getD 0 = (bs[k]?).getD 0 := by
  induction bs generalizing a k with
  | nil => rfl
  | cons b bs ih =>
    cases k with
    | zero =>
      by_cases hb : b = 0
      · simp [imageCells, hb, findCell_imageCells_below bs (show a < a + 1 by omega)]
      · simp [imageCells_cons_of_ne hb, findCell]
    | succ k =>
      have h := ih (a + 1) k
      rw [show a + 1 + k = a + (k + 1) by omega] at h
      by_cases hb : b = 0
      · simpa [imageCells, hb] using h
      · simpa [imageCells_cons_of_ne hb, findCell] using h

/-- A filled buffer reads as its bytes, and as zero after them (42_serializer.md R172). -/
@[simp] theorem Memory.read_image (bs : List Byte) (k : Nat) : (Memory.image bs).read k = some ((bs[k]?).getD 0) := by
  have h := findCell_imageCells 0 k bs
  rw [Nat.zero_add] at h
  rw [← h, Memory.read]
  show (match findCell k (imageCells 0 bs) with | some b => some b | none => some 0) = _
  cases findCell k (imageCells 0 bs) <;> rfl

@[simp] theorem Memory.unlisted_image (bs : List Byte) : (Memory.image bs).unlisted = some 0 := rfl

theorem cellsRising_imageCells (a : Nat) (bs : List Byte) : cellsRising a (imageCells a bs) = true := by
  induction bs generalizing a with
  | nil => rfl
  | cons b bs ih =>
    by_cases hb : b = 0
    · simpa [imageCells, hb] using cellsRising_mono (Nat.le_succ a) (ih (a + 1))
    · simpa [imageCells_cons_of_ne hb, cellsRising] using ih (a + 1)

theorem mem_imageCells {a : Nat} {bs : List Byte} {c : Host.Cell} (h : c ∈ imageCells a bs) :
    c.2 ≠ 0 ∧ c.1 < a + bs.length := by
  induction bs generalizing a with
  | nil => simp [imageCells] at h
  | cons b bs ih =>
    by_cases hb : b = 0
    · rw [imageCells, if_pos hb] at h
      have := ih h
      simp only [List.length_cons]
      exact ⟨this.1, by omega⟩
    · rw [imageCells, if_neg hb] at h
      simp only [List.length_cons]
      rcases List.mem_cons.1 h with rfl | h
      · exact ⟨hb, by simp⟩
      · have := ih h; exact ⟨this.1, by omega⟩

/-- A filled buffer is in canonical form. -/
theorem Memory.wf_image (bs : List Byte) : (Memory.image bs).wf = true := by
  simp only [Memory.wf, Bool.and_eq_true, List.all_eq_true, decide_eq_true_eq]
  exact ⟨cellsRising_imageCells 0 bs, fun c hc h => (mem_imageCells hc).1 (Option.some.inj h).symm⟩

theorem Memory.within_image {bs : List Byte} {n : Nat} (h : bs.length ≤ n) : (Memory.image bs).within n = true := by
  simp only [Memory.within, List.all_eq_true, decide_eq_true_eq]
  intro c hc
  have := (mem_imageCells hc).2
  omega

/-- The unwritten buffer is in canonical form, and every byte of it is a free draw (10_state.md R45). -/
theorem Memory.wf_unwritten : Memory.unwritten.wf = true := rfl

@[simp] theorem Memory.read_unwritten (a : Nat) : Memory.unwritten.read a = none := rfl

end Sys2Proof.Machine
end

