-- ==== Sys2Proof/Laws/State.lean ====
section
/-! SUPPORT. One lemma per field per named update of State, and the two cases of `whenIdle`. -/

namespace Sys2Proof.Machine

/-! ## `withStream`: Replacing the byte-stream set changes that set alone. -/

@[simp] theorem State.withStream_ieDone (s : State) (st : ByteStream) : (s.withStream st).ieDone = s.ieDone := rfl
@[simp] theorem State.withStream_ieErr (s : State) (st : ByteStream) : (s.withStream st).ieErr = s.ieErr := rfl
@[simp] theorem State.withStream_busy (s : State) (st : ByteStream) : (s.withStream st).busy = s.busy := rfl
@[simp] theorem State.withStream_done (s : State) (st : ByteStream) : (s.withStream st).done = s.done := rfl
@[simp] theorem State.withStream_err (s : State) (st : ByteStream) : (s.withStream st).err = s.err := rfl
@[simp] theorem State.withStream_errcode (s : State) (st : ByteStream) : (s.withStream st).errcode = s.errcode := rfl
@[simp] theorem State.withStream_lovf (s : State) (st : ByteStream) : (s.withStream st).lovf = s.lovf := rfl
@[simp] theorem State.withStream_segv (s : State) (st : ByteStream) : (s.withStream st).segv = s.segv := rfl
@[simp] theorem State.withStream_sport (s : State) (st : ByteStream) : (s.withStream st).sport = s.sport := rfl
@[simp] theorem State.withStream_dport (s : State) (st : ByteStream) : (s.withStream st).dport = s.dport := rfl
@[simp] theorem State.withStream_saddr (s : State) (st : ByteStream) : (s.withStream st).saddr = s.saddr := rfl
@[simp] theorem State.withStream_daddr (s : State) (st : ByteStream) : (s.withStream st).daddr = s.daddr := rfl
@[simp] theorem State.withStream_plen (s : State) (st : ByteStream) : (s.withStream st).plen = s.plen := rfl
@[simp] theorem State.withStream_len (s : State) (st : ByteStream) : (s.withStream st).len = s.len := rfl
@[simp] theorem State.withStream_csum (s : State) (st : ByteStream) : (s.withStream st).csum = s.csum := rfl
@[simp] theorem State.withStream_stream (s : State) (st : ByteStream) : (s.withStream st).stream = st := rfl
@[simp] theorem State.withStream_olen (s : State) (st : ByteStream) : (s.withStream st).olen = s.olen := rfl
@[simp] theorem State.withStream_busyOp (s : State) (st : ByteStream) : (s.withStream st).busyOp = s.busyOp := rfl
@[simp] theorem State.withStream_pbuf (s : State) (st : ByteStream) : (s.withStream st).pbuf = s.pbuf := rfl
@[simp] theorem State.withStream_obuf (s : State) (st : ByteStream) : (s.withStream st).obuf = s.obuf := rfl
@[simp] theorem State.withStream_schedule (s : State) (st : ByteStream) : (s.withStream st).schedule = s.schedule := rfl
@[simp] theorem State.withStream_response (s : State) (st : ByteStream) : (s.withStream st).response = s.response := rfl
@[simp] theorem State.withStream_draws (s : State) (st : ByteStream) : (s.withStream st).draws = s.draws := rfl

/-! ## `raiseError`: Recording an error changes ERR and ERRCODE alone (60_exceptions.md R195). -/

@[simp] theorem State.raiseError_ieDone (s : State) (e : ErrorCode) : (s.raiseError e).ieDone = s.ieDone := rfl
@[simp] theorem State.raiseError_ieErr (s : State) (e : ErrorCode) : (s.raiseError e).ieErr = s.ieErr := rfl
@[simp] theorem State.raiseError_busy (s : State) (e : ErrorCode) : (s.raiseError e).busy = s.busy := rfl
@[simp] theorem State.raiseError_done (s : State) (e : ErrorCode) : (s.raiseError e).done = s.done := rfl
@[simp] theorem State.raiseError_err (s : State) (e : ErrorCode) : (s.raiseError e).err = true := rfl
@[simp] theorem State.raiseError_errcode (s : State) (e : ErrorCode) : (s.raiseError e).errcode = if s.err then s.errcode else e.bits := rfl
@[simp] theorem State.raiseError_lovf (s : State) (e : ErrorCode) : (s.raiseError e).lovf = s.lovf := rfl
@[simp] theorem State.raiseError_segv (s : State) (e : ErrorCode) : (s.raiseError e).segv = s.segv := rfl
@[simp] theorem State.raiseError_sport (s : State) (e : ErrorCode) : (s.raiseError e).sport = s.sport := rfl
@[simp] theorem State.raiseError_dport (s : State) (e : ErrorCode) : (s.raiseError e).dport = s.dport := rfl
@[simp] theorem State.raiseError_saddr (s : State) (e : ErrorCode) : (s.raiseError e).saddr = s.saddr := rfl
@[simp] theorem State.raiseError_daddr (s : State) (e : ErrorCode) : (s.raiseError e).daddr = s.daddr := rfl
@[simp] theorem State.raiseError_plen (s : State) (e : ErrorCode) : (s.raiseError e).plen = s.plen := rfl
@[simp] theorem State.raiseError_len (s : State) (e : ErrorCode) : (s.raiseError e).len = s.len := rfl
@[simp] theorem State.raiseError_csum (s : State) (e : ErrorCode) : (s.raiseError e).csum = s.csum := rfl
@[simp] theorem State.raiseError_stream (s : State) (e : ErrorCode) : (s.raiseError e).stream = s.stream := rfl
@[simp] theorem State.raiseError_olen (s : State) (e : ErrorCode) : (s.raiseError e).olen = s.olen := rfl
@[simp] theorem State.raiseError_busyOp (s : State) (e : ErrorCode) : (s.raiseError e).busyOp = s.busyOp := rfl
@[simp] theorem State.raiseError_pbuf (s : State) (e : ErrorCode) : (s.raiseError e).pbuf = s.pbuf := rfl
@[simp] theorem State.raiseError_obuf (s : State) (e : ErrorCode) : (s.raiseError e).obuf = s.obuf := rfl
@[simp] theorem State.raiseError_schedule (s : State) (e : ErrorCode) : (s.raiseError e).schedule = s.schedule := rfl
@[simp] theorem State.raiseError_response (s : State) (e : ErrorCode) : (s.raiseError e).response = s.response := rfl
@[simp] theorem State.raiseError_draws (s : State) (e : ErrorCode) : (s.raiseError e).draws = s.draws := rfl

/-! ## `acceptLong`: Accepting a long command changes BUSY and BUSY_OP alone (30_encoding.md R96). -/

@[simp] theorem State.acceptLong_ieDone (s : State) (op : LongOp) : (s.acceptLong op).ieDone = s.ieDone := rfl
@[simp] theorem State.acceptLong_ieErr (s : State) (op : LongOp) : (s.acceptLong op).ieErr = s.ieErr := rfl
@[simp] theorem State.acceptLong_busy (s : State) (op : LongOp) : (s.acceptLong op).busy = true := rfl
@[simp] theorem State.acceptLong_done (s : State) (op : LongOp) : (s.acceptLong op).done = s.done := rfl
@[simp] theorem State.acceptLong_err (s : State) (op : LongOp) : (s.acceptLong op).err = s.err := rfl
@[simp] theorem State.acceptLong_errcode (s : State) (op : LongOp) : (s.acceptLong op).errcode = s.errcode := rfl
@[simp] theorem State.acceptLong_lovf (s : State) (op : LongOp) : (s.acceptLong op).lovf = s.lovf := rfl
@[simp] theorem State.acceptLong_segv (s : State) (op : LongOp) : (s.acceptLong op).segv = s.segv := rfl
@[simp] theorem State.acceptLong_sport (s : State) (op : LongOp) : (s.acceptLong op).sport = s.sport := rfl
@[simp] theorem State.acceptLong_dport (s : State) (op : LongOp) : (s.acceptLong op).dport = s.dport := rfl
@[simp] theorem State.acceptLong_saddr (s : State) (op : LongOp) : (s.acceptLong op).saddr = s.saddr := rfl
@[simp] theorem State.acceptLong_daddr (s : State) (op : LongOp) : (s.acceptLong op).daddr = s.daddr := rfl
@[simp] theorem State.acceptLong_plen (s : State) (op : LongOp) : (s.acceptLong op).plen = s.plen := rfl
@[simp] theorem State.acceptLong_len (s : State) (op : LongOp) : (s.acceptLong op).len = s.len := rfl
@[simp] theorem State.acceptLong_csum (s : State) (op : LongOp) : (s.acceptLong op).csum = s.csum := rfl
@[simp] theorem State.acceptLong_stream (s : State) (op : LongOp) : (s.acceptLong op).stream = s.stream := rfl
@[simp] theorem State.acceptLong_olen (s : State) (op : LongOp) : (s.acceptLong op).olen = s.olen := rfl
@[simp] theorem State.acceptLong_busyOp (s : State) (op : LongOp) : (s.acceptLong op).busyOp = some op := rfl
@[simp] theorem State.acceptLong_pbuf (s : State) (op : LongOp) : (s.acceptLong op).pbuf = s.pbuf := rfl
@[simp] theorem State.acceptLong_obuf (s : State) (op : LongOp) : (s.acceptLong op).obuf = s.obuf := rfl
@[simp] theorem State.acceptLong_schedule (s : State) (op : LongOp) : (s.acceptLong op).schedule = s.schedule := rfl
@[simp] theorem State.acceptLong_response (s : State) (op : LongOp) : (s.acceptLong op).response = s.response := rfl
@[simp] theorem State.acceptLong_draws (s : State) (op : LongOp) : (s.acceptLong op).draws = s.draws := rfl

/-! ## `finishLong`: Finishing a long command changes DONE and BUSY alone (40_checksum.md R129). -/

@[simp] theorem State.finishLong_ieDone (s : State) : (s.finishLong).ieDone = s.ieDone := rfl
@[simp] theorem State.finishLong_ieErr (s : State) : (s.finishLong).ieErr = s.ieErr := rfl
@[simp] theorem State.finishLong_busy (s : State) : (s.finishLong).busy = false := rfl
@[simp] theorem State.finishLong_done (s : State) : (s.finishLong).done = true := rfl
@[simp] theorem State.finishLong_err (s : State) : (s.finishLong).err = s.err := rfl
@[simp] theorem State.finishLong_errcode (s : State) : (s.finishLong).errcode = s.errcode := rfl
@[simp] theorem State.finishLong_lovf (s : State) : (s.finishLong).lovf = s.lovf := rfl
@[simp] theorem State.finishLong_segv (s : State) : (s.finishLong).segv = s.segv := rfl
@[simp] theorem State.finishLong_sport (s : State) : (s.finishLong).sport = s.sport := rfl
@[simp] theorem State.finishLong_dport (s : State) : (s.finishLong).dport = s.dport := rfl
@[simp] theorem State.finishLong_saddr (s : State) : (s.finishLong).saddr = s.saddr := rfl
@[simp] theorem State.finishLong_daddr (s : State) : (s.finishLong).daddr = s.daddr := rfl
@[simp] theorem State.finishLong_plen (s : State) : (s.finishLong).plen = s.plen := rfl
@[simp] theorem State.finishLong_len (s : State) : (s.finishLong).len = s.len := rfl
@[simp] theorem State.finishLong_csum (s : State) : (s.finishLong).csum = s.csum := rfl
@[simp] theorem State.finishLong_stream (s : State) : (s.finishLong).stream = s.stream := rfl
@[simp] theorem State.finishLong_olen (s : State) : (s.finishLong).olen = s.olen := rfl
@[simp] theorem State.finishLong_busyOp (s : State) : (s.finishLong).busyOp = s.busyOp := rfl
@[simp] theorem State.finishLong_pbuf (s : State) : (s.finishLong).pbuf = s.pbuf := rfl
@[simp] theorem State.finishLong_obuf (s : State) : (s.finishLong).obuf = s.obuf := rfl
@[simp] theorem State.finishLong_schedule (s : State) : (s.finishLong).schedule = s.schedule := rfl
@[simp] theorem State.finishLong_response (s : State) : (s.finishLong).response = s.response := rfl
@[simp] theorem State.finishLong_draws (s : State) : (s.finishLong).draws = s.draws := rfl

/-! ## `recordLength`: Computing the length changes LEN and LOVF alone (41_builder.md R151). -/

@[simp] theorem State.recordLength_ieDone (s : State) : (s.recordLength).ieDone = s.ieDone := rfl
@[simp] theorem State.recordLength_ieErr (s : State) : (s.recordLength).ieErr = s.ieErr := rfl
@[simp] theorem State.recordLength_busy (s : State) : (s.recordLength).busy = s.busy := rfl
@[simp] theorem State.recordLength_done (s : State) : (s.recordLength).done = s.done := rfl
@[simp] theorem State.recordLength_err (s : State) : (s.recordLength).err = s.err := rfl
@[simp] theorem State.recordLength_errcode (s : State) : (s.recordLength).errcode = s.errcode := rfl
@[simp] theorem State.recordLength_lovf (s : State) : (s.recordLength).lovf = lengthOverflow s.plen := rfl
@[simp] theorem State.recordLength_segv (s : State) : (s.recordLength).segv = s.segv := rfl
@[simp] theorem State.recordLength_sport (s : State) : (s.recordLength).sport = s.sport := rfl
@[simp] theorem State.recordLength_dport (s : State) : (s.recordLength).dport = s.dport := rfl
@[simp] theorem State.recordLength_saddr (s : State) : (s.recordLength).saddr = s.saddr := rfl
@[simp] theorem State.recordLength_daddr (s : State) : (s.recordLength).daddr = s.daddr := rfl
@[simp] theorem State.recordLength_plen (s : State) : (s.recordLength).plen = s.plen := rfl
@[simp] theorem State.recordLength_len (s : State) : (s.recordLength).len = lengthField s.plen := rfl
@[simp] theorem State.recordLength_csum (s : State) : (s.recordLength).csum = s.csum := rfl
@[simp] theorem State.recordLength_stream (s : State) : (s.recordLength).stream = s.stream := rfl
@[simp] theorem State.recordLength_olen (s : State) : (s.recordLength).olen = s.olen := rfl
@[simp] theorem State.recordLength_busyOp (s : State) : (s.recordLength).busyOp = s.busyOp := rfl
@[simp] theorem State.recordLength_pbuf (s : State) : (s.recordLength).pbuf = s.pbuf := rfl
@[simp] theorem State.recordLength_obuf (s : State) : (s.recordLength).obuf = s.obuf := rfl
@[simp] theorem State.recordLength_schedule (s : State) : (s.recordLength).schedule = s.schedule := rfl
@[simp] theorem State.recordLength_response (s : State) : (s.recordLength).response = s.response := rfl
@[simp] theorem State.recordLength_draws (s : State) : (s.recordLength).draws = s.draws := rfl

/-! ## `applyReset`: A reset leaves only the events to come and the draw counter (70_reset_and_hazards.md R220). -/

@[simp] theorem State.applyReset_ieDone (s : State) : (s.applyReset).ieDone = State.reset.ieDone := rfl
@[simp] theorem State.applyReset_ieErr (s : State) : (s.applyReset).ieErr = State.reset.ieErr := rfl
@[simp] theorem State.applyReset_busy (s : State) : (s.applyReset).busy = State.reset.busy := rfl
@[simp] theorem State.applyReset_done (s : State) : (s.applyReset).done = State.reset.done := rfl
@[simp] theorem State.applyReset_err (s : State) : (s.applyReset).err = State.reset.err := rfl
@[simp] theorem State.applyReset_errcode (s : State) : (s.applyReset).errcode = State.reset.errcode := rfl
@[simp] theorem State.applyReset_lovf (s : State) : (s.applyReset).lovf = State.reset.lovf := rfl
@[simp] theorem State.applyReset_segv (s : State) : (s.applyReset).segv = State.reset.segv := rfl
@[simp] theorem State.applyReset_sport (s : State) : (s.applyReset).sport = State.reset.sport := rfl
@[simp] theorem State.applyReset_dport (s : State) : (s.applyReset).dport = State.reset.dport := rfl
@[simp] theorem State.applyReset_saddr (s : State) : (s.applyReset).saddr = State.reset.saddr := rfl
@[simp] theorem State.applyReset_daddr (s : State) : (s.applyReset).daddr = State.reset.daddr := rfl
@[simp] theorem State.applyReset_plen (s : State) : (s.applyReset).plen = State.reset.plen := rfl
@[simp] theorem State.applyReset_len (s : State) : (s.applyReset).len = State.reset.len := rfl
@[simp] theorem State.applyReset_csum (s : State) : (s.applyReset).csum = State.reset.csum := rfl
@[simp] theorem State.applyReset_stream (s : State) : (s.applyReset).stream = State.reset.stream := rfl
@[simp] theorem State.applyReset_olen (s : State) : (s.applyReset).olen = State.reset.olen := rfl
@[simp] theorem State.applyReset_busyOp (s : State) : (s.applyReset).busyOp = State.reset.busyOp := rfl
@[simp] theorem State.applyReset_pbuf (s : State) : (s.applyReset).pbuf = State.reset.pbuf := rfl
@[simp] theorem State.applyReset_obuf (s : State) : (s.applyReset).obuf = State.reset.obuf := rfl
@[simp] theorem State.applyReset_schedule (s : State) : (s.applyReset).schedule = s.schedule := rfl
@[simp] theorem State.applyReset_response (s : State) : (s.applyReset).response = State.reset.response := rfl
@[simp] theorem State.applyReset_draws (s : State) : (s.applyReset).draws = s.draws := rfl

/-! ## `whenIdle` -/

@[simp] theorem State.whenIdle_of_busy {s : State} (h : s.busy = true) (f : State → State) :
    s.whenIdle f = s.raiseError .busy := by simp [State.whenIdle, h]

@[simp] theorem State.whenIdle_of_idle {s : State} (h : s.busy = false) (f : State → State) :
    s.whenIdle f = f s := by simp [State.whenIdle, h]

/-- The two things a guarded write can do. -/
theorem State.whenIdle_cases (s : State) (f : State → State) :
    (s.busy = true ∧ s.whenIdle f = s.raiseError .busy) ∨ (s.busy = false ∧ s.whenIdle f = f s) := by
  cases h : s.busy
  · exact .inr ⟨rfl, by simp [h]⟩
  · exact .inl ⟨rfl, by simp [h]⟩

end Sys2Proof.Machine
end

