-- ==== Sys2Proof/Laws/Ops.lean ====
section
/-! SUPPORT. One spec lemma for each shared operation: reads with draws, busy-window observation, the byte stream. -/

namespace Sys2Proof.Machine

/-! ## Reads with draws -/

/-- A written byte is read exactly, and no draw is made. -/
theorem readByte_of_written {m : Memory} {a : Nat} {b : Byte} (h : m.read a = some b) (d : Nat) :
    readByte m a d = (b, d) := by simp [readByte, h]

/-- An unspecified byte is the next draw. -/
theorem readByte_of_unwritten {m : Memory} {a : Nat} (h : m.read a = none) (d : Nat) :
    readByte m a d = (Config.freeDraw 8 d, d + 1) := by simp [readByte, h]

@[simp] theorem readBytes_length (m : Memory) (n a d : Nat) : (readBytes m n a d).1.length = n := by
  induction n generalizing a d with
  | zero => rfl
  | succ n ih => simp [readBytes, ih]

/-- Among the bytes read, each written one is exact. -/
theorem readBytes_written {m : Memory} {n a d k : Nat} {b : Byte} (hk : k < n) (h : m.read (a + k) = some b) :
    (readBytes m n a d).1[k]? = some b := by
  induction n generalizing a d k with
  | zero => omega
  | succ n ih =>
    cases k with
    | zero => simp [readBytes, readByte_of_written (show m.read a = some b from h)]
    | succ k =>
      have := ih (a := a + 1) (d := (readByte m a d).2) (k := k) (by omega)
        (by rwa [show a + 1 + k = a + (k + 1) by omega])
      simpa [readBytes] using this

/-- Where every byte is written, a read makes no draw and does not depend on the draws made before. -/
theorem readBytes_of_written {m : Memory} {n a : Nat} (h : ∀ k < n, (m.read (a + k)).isSome = true) (d d' : Nat) :
    (readBytes m n a d).2 = d ∧ (readBytes m n a d).1 = (readBytes m n a d').1 := by
  induction n generalizing a d d' with
  | zero => exact ⟨rfl, rfl⟩
  | succ n ih =>
    obtain ⟨b, hb⟩ := Option.isSome_iff_exists.1 (h 0 (by omega))
    have ih' := ih (a := a + 1) (fun k hk => by simpa [show a + 1 + k = a + (k + 1) by omega] using h (k + 1) (by omega))
    have hb' : m.read a = some b := hb
    simp only [readBytes, readByte_of_written hb']
    exact ⟨(ih' d d').1, by rw [(ih' d d').2]⟩

@[simp] theorem State.payload_length (s : State) : s.payload.1.length = s.plen.toNat := readBytes_length ..

/-- Four written bytes make the word with the first of them highest, and no draw is made. -/
theorem readWindow_of_written {m : Memory} {a : Nat} {b0 b1 b2 b3 : Byte} (h0 : m.read a = some b0)
    (h1 : m.read (a + 1) = some b1) (h2 : m.read (a + 2) = some b2) (h3 : m.read (a + 3) = some b3) (d : Nat) :
    readWindow m a d = (b0 ++ b1 ++ b2 ++ b3, d) := by
  simp [readWindow, readByte_of_written h0, readByte_of_written h1, readByte_of_written h2, readByte_of_written h3]

/-! ## The busy window -/

theorem State.hides_of_idle {s : State} (h : s.busy = false) (f : Field) : s.hides f = false := by
  simp [State.hides, h]

theorem State.hides_of_busy {s : State} {op : LongOp} (h : s.busy = true) (hop : s.busyOp = some op) (f : Field) :
    s.hides f = op.writes f := by simp [State.hides, h, hop]

theorem State.observe_exact {s : State} {f : Field} (h : s.hides f = false) {w : Nat} (x : BitVec w) (d : Nat) :
    s.observe f x d = (x, d) := by simp [State.observe, h]

theorem State.observe_hidden {s : State} {f : Field} (h : s.hides f = true) {w : Nat} (x : BitVec w) (d : Nat) :
    s.observe f x d = (Config.freeDraw w d, d + 1) := by simp [State.observe, h]

/-! ## The byte stream -/

@[simp] theorem ByteStream.feedAll_nil (st : ByteStream) : st.feedAll [] = st := rfl
@[simp] theorem ByteStream.feedAll_cons (st : ByteStream) (b : Byte) (bs : List Byte) :
    st.feedAll (b :: bs) = (st.feed b).feedAll bs := rfl

theorem ByteStream.feed_first {st : ByteStream} (h : st.pend = false) (b : Byte) :
    st.feed b = { st with pend := true, pbyte := b } := by simp [ByteStream.feed, h]

theorem ByteStream.feed_second {st : ByteStream} (h : st.pend = true) (b : Byte) :
    st.feed b = { acc := eac16 st.acc (be16 st.pbyte b), pend := false, pbyte := 0 } := by simp [ByteStream.feed, h]

theorem ByteStream.flush_empty {st : ByteStream} (h : st.pend = false) : st.flush = st := by
  simp [ByteStream.flush, h]

theorem ByteStream.flush_pending {st : ByteStream} (h : st.pend = true) :
    st.flush = { acc := eac16 st.acc (be16 st.pbyte 0), pend := false, pbyte := 0 } := by
  simp [ByteStream.flush, h]

@[simp] theorem ByteStream.flush_pend (st : ByteStream) : st.flush.pend = false := by
  cases h : st.pend <;> simp [ByteStream.flush, h]

/-- After a fed byte, PBYTE is 0 when PEND is 0 (10_state.md R29). -/
theorem ByteStream.feed_pbyte (st : ByteStream) (b : Byte) (h : (st.feed b).pend = false) : (st.feed b).pbyte = 0 := by
  cases hp : st.pend <;> simp_all [ByteStream.feed]

end Sys2Proof.Machine
end

