-- ==== Sys2Proof/Laws/Step.lean ====
section
/-! SUPPORT. What a step, an event and an access can do: the equations and case lists that later proofs cite. -/

namespace Sys2Proof.Machine

@[simp] theorem step_nil {s : State} (h : s.schedule = []) : step s = engineTurn s := by simp [step, h]

@[simp] theorem step_cons {s : State} {e : Event} {rest : List Event} (h : s.schedule = e :: rest) :
    step s = perform e { s with schedule := rest } := by simp [step, h]

theorem engineTurn_idle {s : State} (h : s.busy = false) : engineTurn s = .next s := by simp [engineTurn, h]

theorem engineTurn_busy {s : State} (h : s.busy = true) : engineTurn s = engineStep s := by simp [engineTurn, h]

theorem engineTurn_addbuf {s : State} (h : s.busy = true) (hop : s.busyOp = some .addbuf) :
    engineTurn s = .next (completeAddbuf s) := by simp [engineTurn, engineStep, h, hop]

theorem engineTurn_build {s : State} (h : s.busy = true) (hop : s.busyOp = some .build) :
    engineTurn s = .next (completeBuild s) := by simp [engineTurn, engineStep, h, hop]

theorem engineTurn_ser {s : State} (h : s.busy = true) (hop : s.busyOp = some .ser) :
    engineTurn s = .next (completeSer s) := by simp [engineTurn, engineStep, h, hop]

/-- What ADDBUF's completion writes, and all it writes (40_checksum.md R129). -/
theorem completeAddbuf_eq (s : State) : completeAddbuf s =
    { s with stream := s.stream.feedAll s.payload.1, draws := s.payload.2, done := true, busy := false } := rfl

/-- What BUILD's completion writes, and all it writes (41_builder.md R153). -/
theorem completeBuild_eq (s : State) : completeBuild s =
    { s with
      len := lengthField s.plen, lovf := lengthOverflow s.plen
      stream := buildStream s.recordLength s.payload.1
      csum := not16 (buildStream s.recordLength s.payload.1).acc
      segv := true, draws := s.payload.2, done := true, busy := false } := rfl

/-- What SER's completion writes, and all it writes (42_serializer.md R172). -/
theorem completeSer_eq (s : State) : completeSer s =
    { s with
      obuf := Memory.image (headerBytes s.sport s.dport s.len s.csum ++ s.payload.1)
      olen := totalLength s.plen, draws := s.payload.2, done := true, busy := false } := rfl

/-- Where the engine's turn ends in a next state: nothing happened, or one of the three commands completed. -/
theorem engineTurn_cases {s t : State} (h : engineTurn s = .next t) :
    (s.busy = false ∧ t = s) ∨
    (s.busy = true ∧ s.busyOp = some .addbuf ∧ t = completeAddbuf s) ∨
    (s.busy = true ∧ s.busyOp = some .build ∧ t = completeBuild s) ∨
    (s.busy = true ∧ s.busyOp = some .ser ∧ t = completeSer s) := by
  cases hb : s.busy
  · rw [engineTurn_idle hb] at h; cases h; exact .inl ⟨rfl, rfl⟩
  · rw [engineTurn_busy hb, engineStep] at h
    cases ho : s.busyOp with
    | none => simp [ho] at h
    | some op =>
      rw [ho] at h
      cases op <;> (simp only at h; cases h)
      · exact .inr (.inl ⟨rfl, rfl, rfl⟩)
      · exact .inr (.inr (.inl ⟨rfl, rfl, rfl⟩))
      · exact .inr (.inr (.inr ⟨rfl, rfl, rfl⟩))

/-- A read that answers leaves the state but for the answer and the draws. -/
theorem access_read_cases {off : Offset} {size : AccessSize} {s t : State} (h : access (.read off size) s = .next t) :
    accepted off size = true ∧
    t = { s with response := some (.data (readRegion (regionAt off.toNat) s).1), draws := (readRegion (regionAt off.toNat) s).2 } := by
  by_cases ha : accepted off size = true
  · simp only [access, ha, if_true] at h
    cases h
    exact ⟨ha, rfl⟩
  · simp [access, ha] at h

/-- A write that answers is an aligned one, and its region says what it does. -/
theorem access_write_cases {off : Offset} {size : AccessSize} {v : Word} {s t : State}
    (h : access (.write off size v) s = .next t) :
    accepted off size = true ∧ writeRegion (regionAt off.toNat) v { s with response := some .ok } = .next t := by
  by_cases ha : accepted off size = true
  · simp only [access, ha, if_true] at h
    exact ⟨ha, h⟩
  · simp [access, ha] at h

/-- What the issue of a word can do: a refusal by one of three errors, or the command's own meaning. -/
theorem issueCommand_cases (v : Word) (s : State) :
    (s.busy = true ∧ issueCommand v s = .next (s.raiseError .busy)) ∨
    (s.busy = false ∧ ∃ e, decode v = .error e ∧ issueCommand v s = .next (s.raiseError (decodeErrorCode e))) ∨
    (s.busy = false ∧ ∃ i, decode v = .ok i ∧ issueCommand v s = exec i s) := by
  cases hb : s.busy
  · cases hd : decode v with
    | error e => exact .inr (.inl ⟨rfl, e, rfl, by simp [issueCommand, hb, hd]⟩)
    | ok i => exact .inr (.inr ⟨rfl, i, rfl, by simp [issueCommand, hb, hd]⟩)
  · exact .inl ⟨rfl, by simp [issueCommand, hb]⟩

/-- CMD is the register at its offset. -/
@[simp] theorem regionAt_cmdOffset : regionAt cmdOffset.toNat = .reg .cmd := rfl

@[simp] theorem accepted_cmdOffset : accepted cmdOffset .word = true := rfl

/-- The CMD write of a word answers `Ok` and issues the word. -/
theorem access_cmdWrite (w : Word) (s : State) :
    access (.write cmdOffset .word w) s = issueCommand w { s with response := some .ok } := by
  simp [access, writeRegion, writeReg]

/-! ## Runs -/

theorem run_zero (s : State) : Sys2Proof.core.run 0 s = .next s := rfl

theorem run_succ {s t : State} (h : step s = .next t) (k : Nat) : Sys2Proof.core.run (k + 1) s = Sys2Proof.core.run k t := by
  have h' : Sys2Proof.core.step s = .next t := h
  simp only [Host.Core.run, h']

theorem runsTo_zero (s : State) : runsTo s 0 s := rfl

theorem runsTo_succ {s t u : State} {k : Nat} (h : step s = .next t) (h' : runsTo t k u) : runsTo s (k + 1) u := by
  rw [runsTo, run_succ h]
  exact h'

/-- One run after another. -/
theorem runsTo_append {s t u : State} {j k : Nat} (h : runsTo s j t) (h' : runsTo t k u) : runsTo s (j + k) u := by
  induction j generalizing s with
  | zero => cases h; rwa [Nat.zero_add]
  | succ j ih =>
    cases hs : step s with
    | next s' =>
      rw [runsTo, run_succ hs] at h
      rw [Nat.succ_add]
      exact runsTo_succ hs (ih h)
    | fault f =>
      have hs' : Sys2Proof.core.step s = .fault f := hs
      simp only [runsTo, Host.Core.run, hs'] at h
      cases h
    | refused r =>
      have hs' : Sys2Proof.core.step s = .refused r := hs
      simp only [runsTo, Host.Core.run, hs'] at h
      cases h

end Sys2Proof.Machine
end

