-- ==== Sys2Proof/Laws/HostPort.lean ====
section
/-! SUPPORT. The host port read region by region: which region an offset is in and back, aligned accesses as
equations, and a command's meaning inside a busy window. -/

namespace Sys2Proof.Machine

/-! ## The address map (20_memory.md R61) -/

theorem regionAt_reserved {n : Nat} (h : (0x34 ≤ n ∧ n < 0x10000) ∨ 0x30008 ≤ n) : regionAt n = .reserved := by
  unfold regionAt pbufBytes obufBytes
  rcases h with h | h
  · have hr : regAt n = none := by
      unfold regAt
      split <;> first | rfl | omega
    rw [if_pos h.2, hr]
  · rw [if_neg (by omega), if_neg (by omega), if_neg (by omega)]

theorem regionAt_pbuf {n : Nat} (h : 0x10000 ≤ n) (h' : n < 0x20000) : regionAt n = .pbuf (n - 0x10000) := by
  unfold regionAt pbufBytes
  rw [if_neg (by omega), if_pos (by omega)]

theorem regionAt_obuf {n : Nat} (h : 0x20000 ≤ n) (h' : n < 0x30008) : regionAt n = .obuf (n - 0x20000) := by
  unfold regionAt pbufBytes obufBytes
  rw [if_neg (by omega), if_neg (by omega), if_pos (by omega)]

/-- The offset of each register (10_state.md R20's table). -/
def Reg.offset : Reg → Nat
  | .id     => 0x000
  | .ctrl   => 0x004
  | .status => 0x008
  | .cmd    => 0x00C
  | .ports  => 0x010
  | .saddr  => 0x014
  | .daddr  => 0x018
  | .plen   => 0x01C
  | .len    => 0x020
  | .csum   => 0x024
  | .acc    => 0x028
  | .pbyte  => 0x02C
  | .olen   => 0x030

/-- A register is found at its own offset. -/
theorem regionAt_offset (r : Reg) : regionAt r.offset = .reg r := by cases r <;> rfl

/-- A register is found nowhere else. -/
theorem offset_of_regionAt {n : Nat} {r : Reg} (h : regionAt n = .reg r) : n = r.offset := by
  unfold regionAt at h
  split at h
  · split at h
    · next r' hr =>
      cases h
      unfold regAt at hr
      split at hr <;> cases hr <;> rfl
    · cases h
  · split at h
    · cases h
    · split at h <;> cases h

/-- A PBUF word lies inside PBUF. -/
theorem pbuf_bound_of_regionAt {n k : Nat} (h : regionAt n = .pbuf k) (h4 : n % 4 = 0) : k + 4 ≤ pbufBytes := by
  unfold regionAt pbufBytes at *
  split at h
  · split at h <;> cases h
  · split at h
    · injection h with h
      omega
    · split at h <;> cases h

/-! ## Accesses -/

theorem accepted_word {off : Offset} (h : off.toNat % 4 = 0) : accepted off .word = true := by simp [accepted, h]

/-- An aligned read answers with its region's value and changes nothing but the answer and the draws. -/
theorem access_read (s : State) {off : Offset} (h : off.toNat % 4 = 0) : access (.read off .word) s =
    .next { s with
      response := some (.data (readRegion (regionAt off.toNat) s).1)
      draws := (readRegion (regionAt off.toNat) s).2 } := by simp [access, accepted_word h]

/-- An aligned write answers `Ok` and does what its region says. -/
theorem access_write (s : State) {off : Offset} (v : Word) (h : off.toNat % 4 = 0) : access (.write off .word v) s =
    writeRegion (regionAt off.toNat) v { s with response := some .ok } := by simp [access, accepted_word h]

/-! ## Commands -/

/-- Every command is refused with Error(BUSY) in a busy window. -/
theorem exec_of_busy (i : Instr) {s : State} (h : s.busy = true) : exec i s = .next (s.raiseError .busy) := by
  cases i <;> simp [exec, execNop, execClr, execAddw, execAddsa, execAddda, execAddports, execAddlen, execMklen,
    execAddb, execFlush, execFin, execAddbuf, execBuild, execSer, issue, h]

end Sys2Proof.Machine
end

