-- ==== Sys2Proof/Laws/PerInstr.lean ====
section
/-! SUPPORT. Facts stated once per command. -/

namespace Sys2Proof.Laws.EncodesItsRow

/-- The word of the command selects a row of the opcode table with the command's mnemonic and class (30_encoding.md R97). -/
def Statement (i : Instr) : Prop :=
  ∃ r ∈ opcodeTable, r.mnemonic = i.mnemonic ∧ r.long = i.isLong ∧ r.selectedBy (encode i) = true

theorem nop : Statement .nop := ⟨⟨.NOP, 0x00000000, 0xFFFFFFFF, false⟩, by decide, rfl, rfl, rfl⟩
theorem clr : Statement .clr := ⟨⟨.CLR, 0x01000000, 0xFFFFFFFF, false⟩, by decide, rfl, rfl, rfl⟩
theorem addw (imm : Half) : Statement (.addw imm) := by
  refine ⟨⟨.ADDW, 0x02000000, 0xFFFF0000, false⟩, by decide, rfl, rfl, ?_⟩
  simp only [OpcodeRow.selectedBy, encode, beq_iff_eq]
  apply BitVec.eq_of_getLsbD_eq
  intro i hi
  interval_cases i <;> simp
theorem addsa : Statement .addsa := ⟨⟨.ADDSA, 0x03000000, 0xFFFFFFFF, false⟩, by decide, rfl, rfl, rfl⟩
theorem addda : Statement .addda := ⟨⟨.ADDDA, 0x04000000, 0xFFFFFFFF, false⟩, by decide, rfl, rfl, rfl⟩
theorem addports : Statement .addports := ⟨⟨.ADDPORTS, 0x05000000, 0xFFFFFFFF, false⟩, by decide, rfl, rfl, rfl⟩
theorem addlen : Statement .addlen := ⟨⟨.ADDLEN, 0x06000000, 0xFFFFFFFF, false⟩, by decide, rfl, rfl, rfl⟩
theorem mklen : Statement .mklen := ⟨⟨.MKLEN, 0x07000000, 0xFFFFFFFF, false⟩, by decide, rfl, rfl, rfl⟩
theorem addb (imm : Byte) : Statement (.addb imm) := by
  refine ⟨⟨.ADDB, 0x08000000, 0xFFFFFF00, false⟩, by decide, rfl, rfl, ?_⟩
  simp only [OpcodeRow.selectedBy, encode, beq_iff_eq]
  apply BitVec.eq_of_getLsbD_eq
  intro i hi
  interval_cases i <;> simp
theorem flush : Statement .flush := ⟨⟨.FLUSH, 0x09000000, 0xFFFFFFFF, false⟩, by decide, rfl, rfl, rfl⟩
theorem fin : Statement .fin := ⟨⟨.FIN, 0x0A000000, 0xFFFFFFFF, false⟩, by decide, rfl, rfl, rfl⟩
theorem addbuf : Statement .addbuf := ⟨⟨.ADDBUF, 0x10000000, 0xFFFFFFFF, true⟩, by decide, rfl, rfl, rfl⟩
theorem build : Statement .build := ⟨⟨.BUILD, 0x11000000, 0xFFFFFFFF, true⟩, by decide, rfl, rfl, rfl⟩
theorem ser : Statement .ser := ⟨⟨.SER, 0x12000000, 0xFFFFFFFF, true⟩, by decide, rfl, rfl, rfl⟩

end Sys2Proof.Laws.EncodesItsRow
end

