-- ==== Sys2Proof/Laws/StepCases.lean ====
section
/-! SUPPORT. Everything one step can do, said once: the cases of a step that answers a next state. -/

namespace Sys2Proof.Machine

/-- The ways from a state to a next one, each with the event that led there. -/
inductive StepDid (s : State) : State → Prop
  /-- The engine had its turn and no command is in progress (10_state.md R20). -/
  | idle (rest : List Event) (hn : EngineNext s) (hb : s.busy = false) : StepDid s { s with schedule := rest }
  /-- A read: the answer and the draws (20_memory.md R74). -/
  | read (off : Offset) (rest : List Event) (hs : s.schedule = .host (.read off .word) :: rest) (v : Word) (d : Nat) :
      StepDid s { s with schedule := rest, response := some (.data v), draws := d }
  /-- A write that is ignored, outside the registers and windows that take one (20_memory.md R65, R69, R70). -/
  | ignored (off : Offset) (v : Word) (rest : List Event) (hs : s.schedule = .host (.write off .word v) :: rest) :
      StepDid s { s with schedule := rest, response := some .ok }
  /-- A write dropped with an error (60_exceptions.md R190). -/
  | error (e : ErrorCode) (off : Offset) (v : Word) (rest : List Event)
      (hs : s.schedule = .host (.write off .word v) :: rest) :
      StepDid s (State.raiseError { s with schedule := rest, response := some .ok } e)
  /-- A command's own effect, outside a busy window (30_encoding.md R96). -/
  | command (i : Instr) (w : Word) (rest : List Event) (hs : s.schedule = cmdWrite w :: rest) (hd : decode w = .ok i)
      (hb : s.busy = false) (t : State) (ht : exec i { s with schedule := rest, response := some .ok } = .next t) :
      StepDid s t
  /-- A CTRL write (20_memory.md R65). -/
  | ctrl (v : Word) (rest : List Event) (hs : s.schedule = .host (.write 0x00004 .word v) :: rest) :
      StepDid s (writeCtrl v { s with schedule := rest, response := some .ok })
  /-- A STATUS write (20_memory.md R65). -/
  | status (v : Word) (rest : List Event) (hs : s.schedule = .host (.write 0x00008 .word v) :: rest) :
      StepDid s (writeStatus v { s with schedule := rest, response := some .ok })
  /-- An accepted PORTS write (20_memory.md R65). -/
  | ports (v : Word) (rest : List Event) (hs : s.schedule = .host (.write 0x00010 .word v) :: rest) (hb : s.busy = false) :
      StepDid s (writePorts v { s with schedule := rest, response := some .ok })
  /-- An accepted SADDR write (20_memory.md R65). -/
  | saddr (v : Word) (rest : List Event) (hs : s.schedule = .host (.write 0x00014 .word v) :: rest) (hb : s.busy = false) :
      StepDid s (writeSaddr v { s with schedule := rest, response := some .ok })
  /-- An accepted DADDR write (20_memory.md R65). -/
  | daddr (v : Word) (rest : List Event) (hs : s.schedule = .host (.write 0x00018 .word v) :: rest) (hb : s.busy = false) :
      StepDid s (writeDaddr v { s with schedule := rest, response := some .ok })
  /-- An accepted PLEN write (20_memory.md R65). -/
  | plen (v : Word) (rest : List Event) (hs : s.schedule = .host (.write 0x0001C .word v) :: rest) (hb : s.busy = false)
      (hv : v.toNat < 65536) :
      StepDid s { s with schedule := rest, response := some .ok, plen := loHalf v, segv := false }
  /-- An accepted PBUF write (20_memory.md R68). -/
  | pbuf (off : Offset) (k : Nat) (v : Word) (rest : List Event) (hs : s.schedule = .host (.write off .word v) :: rest)
      (hk : k + 4 ≤ pbufBytes) (hb : s.busy = false) :
      StepDid s (writePbuf k v { s with schedule := rest, response := some .ok })
  /-- The completion of ADDBUF (40_checksum.md R129). -/
  | addbuf (rest : List Event) (h : Completes s .addbuf) : StepDid s (completeAddbuf { s with schedule := rest })
  /-- The completion of BUILD (41_builder.md R153). -/
  | build (rest : List Event) (h : Completes s .build) : StepDid s (completeBuild { s with schedule := rest })
  /-- The completion of SER (42_serializer.md R172). -/
  | ser (rest : List Event) (h : Completes s .ser) : StepDid s (completeSer { s with schedule := rest })
  /-- A reset (70_reset_and_hazards.md R220). -/
  | reset (rest : List Event) (hs : s.schedule = .reset :: rest) : StepDid s (State.applyReset { s with schedule := rest })

theorem off_of_regionAt {off : Offset} {r : Reg} (h : regionAt off.toNat = .reg r) : off = BitVec.ofNat 18 r.offset := by
  rw [← offset_of_regionAt h, BitVec.ofNat_toNat, BitVec.setWidth_eq]

theorem engineTurn_did {s t : State} {rest : List Event} (hn : EngineNext s)
    (h : engineTurn { s with schedule := rest } = .next t) : StepDid s t := by
  rcases engineTurn_cases h with ⟨hb, rfl⟩ | ⟨hb, ho, rfl⟩ | ⟨hb, ho, rfl⟩ | ⟨hb, ho, rfl⟩
  · exact .idle rest hn hb
  · exact .addbuf rest ⟨hb, ho, hn⟩
  · exact .build rest ⟨hb, ho, hn⟩
  · exact .ser rest ⟨hb, ho, hn⟩

/-- A write that a busy window refuses: dropped with Error(BUSY), or done outside the window. -/
theorem whenIdle_did {s t : State} {off : Offset} {v : Word} {rest : List Event} {f : State → State}
    (hs : s.schedule = .host (.write off .word v) :: rest)
    (h : .next (State.whenIdle { s with schedule := rest, response := some .ok } f)
      = (.next t : Host.Outcome State Fault Refusal))
    (hf : s.busy = false → StepDid s (f { s with schedule := rest, response := some .ok })) : StepDid s t := by
  cases h
  rcases Bool.eq_false_or_eq_true s.busy with hb | hb
  · rw [show State.whenIdle { s with schedule := rest, response := some .ok } f
        = State.raiseError { s with schedule := rest, response := some .ok } .busy from if_pos hb]
    exact .error .busy off v rest hs
  · rw [State.whenIdle_of_idle (s := { s with schedule := rest, response := some .ok }) hb]
    exact hf hb

/-- What a register write that answers did. -/
theorem writeReg_did {s t : State} {off : Offset} {v : Word} {rest : List Event} {r : Reg}
    (hs : s.schedule = .host (.write off .word v) :: rest) (hr : regionAt off.toNat = .reg r)
    (h : writeReg r v { s with schedule := rest, response := some .ok } = .next t) : StepDid s t := by
  have ho := off_of_regionAt hr
  cases r
  case ctrl => cases h; exact .ctrl v rest (by rw [hs, ho]; rfl)
  case status => cases h; exact .status v rest (by rw [hs, ho]; rfl)
  case ports => exact whenIdle_did hs h fun hb => .ports v rest (by rw [hs, ho]; rfl) hb
  case saddr => exact whenIdle_did hs h fun hb => .saddr v rest (by rw [hs, ho]; rfl) hb
  case daddr => exact whenIdle_did hs h fun hb => .daddr v rest (by rw [hs, ho]; rfl) hb
  case plen =>
    refine whenIdle_did hs h fun hb => ?_
    unfold writePlen
    split
    · exact .error .range off v rest hs
    · next hv =>
      refine .plen v rest (by rw [hs, ho]; rfl) hb ?_
      have hz : hiHalf v = 0 := by simpa using hv
      have := congrArg BitVec.toNat hz
      rw [hiHalf_toNat, show (0 : Half).toNat = 0 from rfl] at this
      omega
  case cmd =>
    have hs' : s.schedule = cmdWrite v :: rest := by rw [hs, ho]; rfl
    change issueCommand v { s with schedule := rest, response := some .ok } = .next t at h
    rcases issueCommand_cases v { s with schedule := rest, response := some .ok } with
      ⟨hb, e⟩ | ⟨hb, err, he, e⟩ | ⟨hb, i, hi, e⟩
    · rw [e] at h; cases h; exact .error .busy off v rest hs
    · rw [e] at h; cases h; exact .error _ off v rest hs
    · rw [e] at h; exact .command i v rest hs' hi hb t h
  all_goals cases h; exact .ignored off v rest hs

/-- Whenever a step answers a next state, it did one of the things that `StepDid` lists. -/
theorem step_did {s t : State} (h : step s = .next t) : StepDid s t := by
  rcases hs : s.schedule with _ | ⟨e, rest⟩
  · rw [step_nil hs] at h
    exact engineTurn_did (rest := []) (.inl hs) (by rw [← hs]; exact h)
  · rw [step_cons hs] at h
    cases e with
    | engine => exact engineTurn_did (.inr ⟨rest, hs⟩) h
    | reset => cases h; exact .reset rest hs
    | host tr =>
      cases tr with
      | read off size =>
        obtain ⟨ha, rfl⟩ := access_read_cases h
        obtain ⟨rfl, -⟩ : size = .word ∧ off.toNat % 4 = 0 := by simpa [accepted] using ha
        exact .read off rest hs _ _
      | write off size v =>
        obtain ⟨ha, hw⟩ := access_write_cases h
        obtain ⟨rfl, h4⟩ : size = .word ∧ off.toNat % 4 = 0 := by simpa [accepted] using ha
        cases hr : regionAt off.toNat with
        | reserved => rw [hr] at hw; cases hw; exact .ignored off v rest hs
        | obuf k => rw [hr] at hw; cases hw; exact .ignored off v rest hs
        | pbuf k =>
          rw [hr] at hw
          exact whenIdle_did hs hw fun hb => .pbuf off k v rest hs (pbuf_bound_of_regionAt hr h4) hb
        | reg r => rw [hr] at hw; exact writeReg_did hs hr hw

end Sys2Proof.Machine
end

