-- ==== Sys2Proof/Tests/Slice0.lean ====
section
/-! SUPPORT. The model's own tests, with expected values from spec/95_test_vectors.md (V1 to V9, T1 to T13) and the
encodings of 30_encoding.md, and for each obligation with hypotheses a witness that meets them. -/

namespace Sys2Proof.Tests

open Sys2Proof Sys2Proof.Machine

/-! ## Helpers -/

/-- What a next state shows; none where the step stops. -/
def seen {α : Type} (f : State → α) : Host.Outcome State Fault Refusal → Option α
  | .next t    => some (f t)
  | .fault _   => none
  | .refused _ => none

/-- The bytes of a list as a buffer written from index 0. -/
def written (bs : List Byte) : Memory := Memory.unwritten.writeBytes 0 bs

/-- "hello world" (95_test_vectors.md, notation). -/
def helloWorld : List Byte := [0x68, 0x65, 0x6C, 0x6C, 0x6F, 0x20, 0x77, 0x6F, 0x72, 0x6C, 0x64]

/-- The HW inputs of V1 with a payload. -/
def hw (p : List Byte) : State :=
  { State.reset with
    sport := 0xDF02, dport := 0x1F40, saddr := 0xC0A80067, daddr := 0xC0A80001
    plen := BitVec.ofNat 16 p.length, pbuf := written p }

/-- The same inputs with a long command in progress. -/
def running (op : LongOp) (p : List Byte) : State := { hw p with busy := true, busyOp := some op }

/-- A state after reset but for its byte-stream set. -/
def streaming (acc : Half) (pend : Bool) (pbyte : Byte) : State :=
  { State.reset with stream := { acc := acc, pend := pend, pbyte := pbyte } }

/-- A state with a schedule. -/
def planned (s : State) (es : List Event) : State := { s with schedule := es }

/-! ## Assembler lines: an ill-formed one for each check (30_encoding.md R102) -/

theorem test_wf_accepts_bounds : (⟨.ADDW, some 65535⟩ : AsmLine).wf = true ∧ (⟨.ADDB, some 255⟩ : AsmLine).wf = true ∧
    (⟨.BUILD, none⟩ : AsmLine).wf = true := by decide
theorem test_wf_refuses_wide_addw : (⟨.ADDW, some 65536⟩ : AsmLine).wf = false := by decide
theorem test_wf_refuses_wide_addb : (⟨.ADDB, some 256⟩ : AsmLine).wf = false := by decide
theorem test_wf_refuses_addw_alone : (⟨.ADDW, none⟩ : AsmLine).wf = false := by decide
theorem test_wf_refuses_addb_alone : (⟨.ADDB, none⟩ : AsmLine).wf = false := by decide
theorem test_wf_refuses_operand_of_nop : (⟨.NOP, some 0⟩ : AsmLine).wf = false := by decide
theorem test_assemble_refuses : assemble ⟨.ADDW, some 65536⟩ = none ∧ assemble ⟨.ADDB, none⟩ = none ∧
    assemble ⟨.SER, some 1⟩ = none := by decide

/-! ## Decoding: each command's word from 30_encoding.md R97 and R102, and words that are none (T9) -/

theorem test_decode_nop : decode 0x00000000 = .ok .nop := rfl
theorem test_decode_clr : decode 0x01000000 = .ok .clr := rfl
theorem test_decode_addw : decode 0x02000011 = .ok (.addw 0x0011) := rfl
theorem test_decode_addw_all_bits : decode 0x0200FFFF = .ok (.addw 0xFFFF) := rfl
theorem test_decode_addsa : decode 0x03000000 = .ok .addsa := rfl
theorem test_decode_addda : decode 0x04000000 = .ok .addda := rfl
theorem test_decode_addports : decode 0x05000000 = .ok .addports := rfl
theorem test_decode_addlen : decode 0x06000000 = .ok .addlen := rfl
theorem test_decode_mklen : decode 0x07000000 = .ok .mklen := rfl
theorem test_decode_addb : decode 0x0800006F = .ok (.addb 0x6F) := rfl
theorem test_decode_addb_all_bits : decode 0x080000FF = .ok (.addb 0xFF) := rfl
theorem test_decode_flush : decode 0x09000000 = .ok .flush := rfl
theorem test_decode_fin : decode 0x0A000000 = .ok .fin := rfl
theorem test_decode_addbuf : decode 0x10000000 = .ok .addbuf := rfl
theorem test_decode_build : decode 0x11000000 = .ok .build := rfl
theorem test_decode_ser : decode 0x12000000 = .ok .ser := rfl
theorem test_decode_illegal : decode 0x0B000000 = .error .illegalOpcode ∧ decode 0xFF000000 = .error .illegalOpcode ∧
    decode 0x0B000001 = .error .illegalOpcode := ⟨rfl, rfl, rfl⟩
theorem test_decode_reserved : decode 0x01000001 = .error .reservedBits ∧ decode 0x02010000 = .error .reservedBits ∧
    decode 0x08000100 = .error .reservedBits := ⟨rfl, rfl, rfl⟩
theorem test_decodeTableWord : decodeTableWord 32 0x02000011 = some (.addw 0x0011) ∧
    decodeTableWord 32 0x0B000000 = none := by decide
theorem test_opcode_table_rows_disjoint : opcodeTable.Pairwise (fun r r' => r.matchBits ≠ r'.matchBits &&& r.mask) := by
  decide

/-! ## Arithmetic (T1, V8) -/

theorem test_eac16 : eac16 0xFFFF 0x0001 = 0x0001 ∧ eac16 0xFFFF 0xFFFF = 0xFFFF ∧ eac16 0xFFFE 0x0002 = 0x0001 ∧
    eac16 0x1234 0xEDCB = 0xFFFF ∧ eac16 0x1234 0xEDCC = 0x0001 := by decide
theorem test_foldLoop : foldLoop 4 0x1FFFF = 0x0001 ∧ foldLoop 4 0x511FD = 0x1202 ∧ foldLoop 4 0xFFFFFFFF = 0xFFFF := by
  decide

/-! ## One step of each immediate command (T2, T3, T4, T6) -/

theorem test_nop : seen State.stream (exec .nop (streaming 0x1234 false 0)) = some ⟨0x1234, false, 0⟩ := by decide
theorem test_clr : seen State.stream (exec .clr (streaming 0xBEEF true 0x41)) = some ⟨0, false, 0⟩ := by decide
theorem test_addw_carry : seen State.stream (exec (.addw 0x0001) (streaming 0xFFFF false 0)) = some ⟨0x0001, false, 0⟩ := by
  decide
theorem test_addw_leaves_stream : seen State.stream (exec (.addw 0x0011) (streaming 0x1234 true 0x68)) =
    some ⟨0x1245, true, 0x68⟩ := by decide
theorem test_addsa : seen State.stream (exec .addsa (hw [])) = some ⟨0xC10F, false, 0⟩ := by decide
theorem test_addda : seen State.stream (exec .addda { hw [] with stream := ⟨0xC10F, false, 0⟩ }) =
    some ⟨0x81B9, false, 0⟩ := by decide
theorem test_addports : seen State.stream (exec .addports { hw [] with stream := ⟨0x81DD, false, 0⟩ }) =
    some ⟨0x8020, false, 0⟩ := by decide
theorem test_addlen : seen State.stream (exec .addlen { hw [] with len := 0x0013, stream := ⟨0x81CA, false, 0⟩ }) =
    some ⟨0x81DD, false, 0⟩ := by decide
theorem test_mklen : seen (fun t => (t.len, t.lovf)) (exec .mklen { State.reset with plen := 11 }) =
    some (0x0013, false) := by decide
theorem test_mklen_overflow : seen (fun t => (t.len, t.lovf)) (exec .mklen { State.reset with plen := 65528 }) =
    some (0x0000, true) := by decide
theorem test_addb_first : seen State.stream (exec (.addb 0x68) (streaming 0x8033 false 0)) = some ⟨0x8033, true, 0x68⟩ := by
  decide
theorem test_addb_second : seen State.stream (exec (.addb 0x65) (streaming 0x8033 true 0x68)) = some ⟨0xE898, false, 0⟩ := by
  decide
theorem test_flush : seen State.stream (exec .flush (streaming 0xAE01 true 0x64)) = some ⟨0x1202, false, 0⟩ := by decide
theorem test_flush_nothing : seen State.stream (exec .flush (streaming 0x5555 false 0)) = some ⟨0x5555, false, 0⟩ := by decide
theorem test_fin : seen (fun t => (t.csum, t.stream, t.segv)) (exec .fin { streaming 0xAE01 true 0x64 with segv := true }) =
    some (0xEDFD, ⟨0x1202, false, 0⟩, false) := by decide
theorem test_fin_no_substitution : seen State.csum (exec .fin (streaming 0xFFFF false 0)) = some 0x0000 := by decide

/-! ## The long commands: acceptance and completion (T5, T7, T8, V7) -/

theorem test_addbuf_accepted : seen (fun t => (t.busy, t.busyOp)) (exec .addbuf (hw helloWorld)) =
    some (true, some .addbuf) := by decide
theorem test_addbuf_completes :
    seen (fun t => (t.stream, t.done, t.busy)) (engineTurn { running .addbuf helloWorld with stream := ⟨0x8033, false, 0⟩ }) =
      some (⟨0xAE01, true, 0x64⟩, true, false) := by decide
theorem test_build_completes :
    seen (fun t => (t.len, t.lovf, t.stream, t.csum)) (engineTurn (running .build helloWorld)) =
      some (0x0013, false, ⟨0x1202, false, 0⟩, 0xEDFD) := by decide
theorem test_build_odd : seen (fun t => (t.len, t.csum)) (engineTurn (running .build [0x6F, 0x64, 0x64])) =
    some (0x000B, 0xAC77) := by decide
theorem test_ser_after_build :
    seen (fun t => (t.olen, [0, 1, 4, 5, 6, 7, 8, 18, 19].map t.obuf.read))
      (engineTurn { running .ser helloWorld with len := 0x0013, csum := 0xEDFD }) =
      some (19, [some 0xDF, some 0x02, some 0x00, some 0x13, some 0xED, some 0xFD, some 0x68, some 0x64, some 0]) := by decide
theorem test_ser_refused_when_busy : seen (fun t => (t.busyOp, t.err, t.errcode)) (exec .ser (running .build helloWorld)) =
    some (some .build, true, 1) := by decide

/-! ## The host port, errors and the interrupt (T9, T10, T11, T13) -/

theorem test_read_id : seen State.response (access (.read 0x000 .word) State.reset) = some (some (.data 0x55445001)) := by
  decide
theorem test_status_after_build : seen State.response
    (access (.read 0x008 .word) { hw helloWorld with done := true, segv := true }) = some (some (.data 0x00000022)) := by decide
theorem test_read_at_reset : [0x004, 0x008, 0x00C, 0x010, 0x014, 0x018, 0x01C, 0x020, 0x024, 0x028, 0x02C, 0x030].map
    (fun off => seen State.response (access (.read off .word) State.reset)) = List.replicate 12 (some (some (.data 0))) := by
  decide
theorem test_read_misaligned : access (.read 0x002 .word) State.reset = .fault .busErr := rfl
theorem test_write_narrow : access (.write 0x00C .half 0x0100) State.reset = .fault .busErr := rfl
theorem test_plen_range : seen (fun t => (t.plen, t.err, t.errcode)) (access (.write 0x01C .word 0x00010000) State.reset) =
    some (0, true, 4) := by decide
theorem test_plen_busy_before_range : seen (fun t => (t.plen, t.errcode))
    (access (.write 0x01C .word 0x00010000) (running .build helloWorld)) = some (11, 1) := by decide
theorem test_cmd_illegal : seen (fun t => (t.err, t.errcode)) (access (.write 0x00C .word 0x0B000001) State.reset) =
    some (true, 2) := by decide
theorem test_cmd_reserved : seen (fun t => (t.err, t.errcode, t.stream.acc))
    (access (.write 0x00C .word 0x01000001) (streaming 0x1234 false 0)) = some (true, 3, 0x1234) := by decide
theorem test_first_error_kept : seen (fun t => (t.err, t.errcode))
    (access (.write 0x00C .word 0x01000001) { State.reset with err := true, errcode := 2 }) = some (true, 2) := by decide
theorem test_status_clear : seen (fun t => (t.done, t.err, t.errcode))
    (access (.write 0x008 .word 0x4) { State.reset with done := true, err := true, errcode := 2 }) =
      some (true, false, 0) := by decide
theorem test_pbuf_write : seen (fun t => [0, 1, 2, 3].map t.pbuf.read) (access (.write 0x10000 .word 0x68656C6C) State.reset) =
    some [some 0x68, some 0x65, some 0x6C, some 0x6C] := by decide
theorem test_irq : ({ State.reset with done := true, ieDone := true } : State).irq = true ∧
    ({ State.reset with err := true, ieErr := false } : State).irq = false ∧ State.reset.irq = false := by decide
theorem test_reset_abandons_build : seen (fun t => (t.busy, t.busyOp, t.sport)) (perform .reset (running .build helloWorld)) =
    some (false, none, 0) := by decide
theorem test_withFetchWord : seen State.stream (step ((streaming 0xFFFF false 0).withFetchWord 32 0x02000001)) =
    some ⟨0x0001, false, 0⟩ := by decide

/-! ## Witnesses: states and operands that meet the hypotheses of the obligations -/

/-- The payload of `hw` is written, as several obligations suppose. -/
theorem hw_payloadWritten : PayloadWritten (hw helloWorld) := by
  show ∀ k, k < 11 → ((hw helloWorld).pbuf.read k).isSome = true
  decide

theorem witness_EncodeOfDecode : decode 0x0200FFFF = .ok (.addw 0xFFFF) ∧ decode 0x12000000 = .ok .ser := ⟨rfl, rfl⟩

theorem witness_DecodeFollowsTheOpcodeTable :
    (∃ r ∈ opcodeTable, (0x0200FFFF : Word) &&& r.mask = r.matchBits) ∧
    (∃ r ∈ opcodeTable, (0x080000FF : Word) &&& r.mask = r.matchBits) ∧
    (∃ r ∈ opcodeTable, (0x12000000 : Word) &&& r.mask = r.matchBits) ∧ decode 0x12000000 = .ok .ser := by
  exact ⟨⟨_, .tail _ (.tail _ (.head _)), rfl⟩, ⟨⟨.ADDB, 0x08000000, 0xFFFFFF00, false⟩, by decide, rfl⟩,
    ⟨⟨.SER, 0x12000000, 0xFFFFFFFF, true⟩, by decide, rfl⟩, rfl⟩

theorem witness_AssemblerRefusesAndEncodesExactly :
    65535 < 65536 ∧ 255 < 256 ∧ assemble ⟨.ADDW, some 65535⟩ = some (.addw 65535) ∧
    assemble ⟨.ADDB, some 255⟩ = some (.addb 255) ∧ Mnemonic.NOP.format = .N ∧ Mnemonic.SER.format = .N := by decide

theorem witness_IllegalOpcodeIsRefused : State.reset.busy = false ∧
    ∀ v ∈ [0x0B000000, 0x0FFFFFFF, 0x13000000, (0xFFFFFFFF : Word)],
      (0x0B ≤ v.toNat / 2 ^ 24 ∧ v.toNat / 2 ^ 24 ≤ 0x0F) ∨ 0x13 ≤ v.toNat / 2 ^ 24 := by
  simp only [List.forall_mem_cons, List.not_mem_nil, false_imp_iff, implies_true, and_true]
  decide

theorem witness_ReservedBitsAreRefused : State.reset.busy = false ∧
    (∀ v ∈ [0x00000001, 0x01800000, 0x0A000001, (0x12FFFFFF : Word)],
      v.toNat / 2 ^ 24 ∈ [0x00, 0x01, 0x03, 0x04, 0x05, 0x06, 0x07, 0x09, 0x0A, 0x10, 0x11, 0x12] ∧ v.toNat % 2 ^ 24 ≠ 0) ∧
    (∀ v ∈ [0x02010000, (0x02FF0000 : Word)], v.toNat / 2 ^ 24 = 0x02 ∧ v.toNat / 2 ^ 16 % 2 ^ 8 ≠ 0) ∧
    (∀ v ∈ [0x08000100, (0x08FFFF00 : Word)], v.toNat / 2 ^ 24 = 0x08 ∧ v.toNat / 2 ^ 8 % 2 ^ 16 ≠ 0) := by
  simp only [List.forall_mem_cons, List.not_mem_nil, false_imp_iff, implies_true, and_true]
  decide

theorem witness_CommandWriteRunsTheCommand :
    (planned State.reset [cmdWrite 0x02000011, .engine]).schedule = cmdWrite 0x02000011 :: [.engine] ∧
    decode 0x02000011 = .ok (.addw 0x0011) := ⟨rfl, rfl⟩

theorem witness_StepFollowsTheSchedule :
    (planned State.reset [.host (.read 0x000 .word)]).schedule = .host (.read 0x000 .word) :: [] ∧
    (planned State.reset [.engine, .reset]).schedule = .engine :: [.reset] ∧
    (planned State.reset [.reset]).schedule = .reset :: [] ∧ State.reset.schedule = [] ∧ State.reset.busy = false :=
  ⟨rfl, rfl, rfl, rfl, rfl⟩

theorem witness_FoldHasItsClosedForm : 0x10000 ≤ 0x10000 ∧ 0xFFFF < 0x10000 ∧ 1 ≤ 1 := by decide

theorem witness_AccumulatorSumsAreFolds : wideSum [0xC0A8, 0x0067] = wideSum [0x0067, 0xC0A8] ∧ (0x0001 : Half) ≠ 0 := by
  decide

theorem witness_AdditionOrderDoesNotMatter : State.reset.busy = false ∧
    [Instr.addsa, .addw 0x0011, .addlen].Perm [.addlen, .addsa, .addw 0x0011] ∧
    ∀ i ∈ [Instr.addsa, .addw 0x0011, .addlen],
      i = .addsa ∨ i = .addda ∨ i = .addports ∨ i = .addlen ∨ ∃ w, i = .addw w := by
  refine ⟨rfl, by decide, ?_⟩
  simp

theorem witness_AdditionOrderDoesNotMatter_pairs : State.reset.busy = false ∧ State.reset.stream.pend = false ∧
    [[Instr.addsa], [.addb 0x68, .addb 0x65]].Perm [[.addb 0x68, .addb 0x65], [.addsa]] ∧
    ∀ g ∈ [[Instr.addsa], [.addb 0x68, .addb 0x65]],
      g = [.addsa] ∨ g = [.addda] ∨ g = [.addports] ∨ g = [.addlen] ∨ (∃ w, g = [.addw w]) ∨
        ∃ a b, g = [.addb a, .addb b] := by
  refine ⟨rfl, rfl, by decide, ?_⟩
  simp

theorem witness_AddwAddsItsWord : (0x02010000 : Word).toNat / 2 ^ 24 = 0x02 ∧
    (0x02010000 : Word).toNat / 2 ^ 16 % 2 ^ 8 ≠ 0 := by decide

theorem witness_AddbFeedsOneByte : (0x08000100 : Word).toNat / 2 ^ 24 = 0x08 ∧
    (0x08000100 : Word).toNat / 2 ^ 8 % 2 ^ 16 ≠ 0 := by decide

/-- For the laws of the commands (`NopChangesNothing` to `LongCommandsAreAccepted`) and
`AdditionCommandsFoldTheirWords`: a state outside a busy window, and one inside. -/
theorem witness_CommandLaw : (streaming 0xFFFF true 0x41).busy = false ∧ (running .build helloWorld).busy = true := ⟨rfl, rfl⟩

theorem witness_AddbufCompletionFeedsThePayload : (running .addbuf helloWorld).busy = true ∧
    (running .addbuf helloWorld).busyOp = some .addbuf ∧ PayloadWritten (running .addbuf helloWorld) :=
  ⟨rfl, rfl, hw_payloadWritten⟩

theorem witness_BuildCompletionComputesTheChecksum : (running .build helloWorld).busy = true ∧
    (running .build helloWorld).busyOp = some .build ∧ PayloadWritten (running .build helloWorld) :=
  ⟨rfl, rfl, hw_payloadWritten⟩

theorem witness_SerCompletionWritesTheWireImage : (running .ser helloWorld).busy = true ∧
    (running .ser helloWorld).busyOp = some .ser ∧ PayloadWritten (running .ser helloWorld) ∧
    0 < 65544 ∧ 65543 < 65544 ∧ 10 < (running .ser helloWorld).plen.toNat ∧
    (running .ser helloWorld).pbuf.read 10 = some 0x64 ∧ ((0, 0xDF02) : Nat × Half) ∈ [(0, 0xDF02), (6, 0xEDFD)] :=
  ⟨rfl, rfl, hw_payloadWritten, by decide, by decide, by decide, by decide, by decide⟩

theorem witness_BuildThenSerGivesTheSegment : (hw helloWorld).busy = false ∧
    (planned (hw helloWorld) [cmdWrite 0x11000000, .engine, cmdWrite 0x12000000, .engine]).schedule =
      cmdWrite 0x11000000 :: .engine :: cmdWrite 0x12000000 :: .engine :: [] ∧ PayloadWritten (hw helloWorld) :=
  ⟨rfl, rfl, hw_payloadWritten⟩

theorem witness_BuildSequenceMatchesBuild : (hw helloWorld).busy = false ∧ PayloadWritten (hw helloWorld) :=
  ⟨rfl, hw_payloadWritten⟩

theorem witness_WrittenPayloadIsDeterministic : CommandInProgress (running .build helloWorld) ∧
    PayloadWritten (running .build helloWorld) := ⟨fun _ => rfl, hw_payloadWritten⟩

theorem witness_RegisterReadTable : (hw helloWorld).busy = false ∧
    ∀ off ∈ [0x00034, (0x0FFFC : Offset)], off.toNat % 4 = 0 ∧ 0x34 ≤ off.toNat ∧ off.toNat < 0x10000 := by
  simp only [List.forall_mem_cons, List.not_mem_nil, false_imp_iff, implies_true, and_true]
  decide

theorem witness_BusyWindowReadsAreDraws :
    (∀ op ∈ [LongOp.addbuf, .build, .ser], (running op helloWorld).busy = true ∧ (running op helloWorld).busyOp = some op) ∧
    ∀ off ∈ [0x20000, (0x30004 : Offset)], off.toNat % 4 = 0 ∧ 0x20000 ≤ off.toNat ∧ off.toNat < 0x30008 := by
  simp only [List.forall_mem_cons, List.not_mem_nil, false_imp_iff, implies_true, and_true]
  decide

theorem witness_WindowReadsAreBigEndian :
    (∀ off ∈ [0x10000, (0x1FFFC : Offset)], off.toNat % 4 = 0 ∧ 0x10000 ≤ off.toNat ∧ off.toNat < 0x20000) ∧
    (∀ off ∈ [0x20000, (0x30004 : Offset)], off.toNat % 4 = 0 ∧ 0x20000 ≤ off.toNat ∧ off.toNat < 0x30008) ∧
    ¬((running .build helloWorld).busy = true ∧ (running .build helloWorld).busyOp = some .ser) := by
  simp only [List.forall_mem_cons, List.not_mem_nil, false_imp_iff, implies_true, and_true]
  decide

theorem witness_RegisterWriteTable :
    ∀ off ∈ [0x00000, 0x00020, 0x00030, 0x00034, (0x0FFFC : Offset)], off.toNat % 4 = 0 ∧ off.toNat < 0x10000 ∧
      off.toNat ∉ [0x004, 0x008, 0x00C, 0x010, 0x014, 0x018, 0x01C] := by
  simp only [List.forall_mem_cons, List.not_mem_nil, false_imp_iff, implies_true, and_true]
  decide

theorem witness_BusyWindowRefusesWrites : (running .ser helloWorld).busy = true ∧
    ∀ off ∈ [0x0000C, 0x00010, 0x0001C, 0x10000, (0x1FFFC : Offset)], off.toNat % 4 = 0 ∧
      (off.toNat ∈ [0x00C, 0x010, 0x014, 0x018, 0x01C] ∨ (0x10000 ≤ off.toNat ∧ off.toNat < 0x20000)) := by
  simp only [List.forall_mem_cons, List.not_mem_nil, false_imp_iff, implies_true, and_true]
  decide

theorem witness_PbufWriteThenRead : (hw helloWorld).busy = false ∧ (running .addbuf helloWorld).busy = true ∧
    (∀ off ∈ [0x10000, (0x1FFFC : Offset)], off.toNat % 4 = 0 ∧ 0x10000 ≤ off.toNat ∧ off.toNat < 0x20000) ∧
    (4 < 0x10004 - 0x10000 ∨ (0x10004 - 0x10000) + 4 ≤ 8) := by
  simp only [List.forall_mem_cons, List.not_mem_nil, false_imp_iff, implies_true, and_true]
  decide

theorem witness_ReservedOffsetsReadZero : ∀ off ∈ [0x00034, 0x0FFFC, 0x30008, (0x3FFFC : Offset)], off.toNat % 4 = 0 ∧
    ((0x00034 ≤ off.toNat ∧ off.toNat < 0x10000) ∨ 0x30008 ≤ off.toNat) := by
  simp only [List.forall_mem_cons, List.not_mem_nil, false_imp_iff, implies_true, and_true]
  decide

theorem witness_ReadOnlyWritesAreIgnored : ∀ off ∈ [0x00000, 0x00030, 0x20000, (0x30004 : Offset)], off.toNat % 4 = 0 ∧
    (off.toNat ∈ [0x000, 0x020, 0x024, 0x028, 0x02C, 0x030] ∨ (0x20000 ≤ off.toNat ∧ off.toNat < 0x30008)) := by
  simp only [List.forall_mem_cons, List.not_mem_nil, false_imp_iff, implies_true, and_true]
  decide

theorem witness_NarrowOrMisalignedIsABusError : AccessSize.half ≠ .word ∧ (0x00001 : Offset).toNat % 4 ≠ 0 ∧
    (0x3FFFF : Offset).toNat % 4 ≠ 0 ∧ (0x3FFFC : Offset).toNat % 4 = 0 := by decide

theorem witness_ReadsHaveNoSideEffects : ∀ off ∈ [0x00000, 0x10000, 0x20000, (0x3FFFC : Offset)], off.toNat % 4 = 0 := by
  simp only [List.forall_mem_cons, List.not_mem_nil, false_imp_iff, implies_true, and_true]
  decide

theorem witness_BaseWindowDecodes : Config.base + 0x40000 < Config.base ∨ Config.base + 0x40000 ≤ Config.base + 0x40000 :=
  .inr (Nat.le_refl _)

theorem witness_ErrorKeepsTheFirstCode : (0x4 : Word).toNat / 4 % 2 = 1 ∧ (0xFFFFFFFF : Word).toNat / 4 % 2 = 1 := by decide

theorem witness_ResetGivesTheTable : ∃ t, perform .reset (running .build helloWorld) = .next t := ⟨_, rfl⟩

/-- The state `hw helloWorld` meets the invariant, and so is a state that `StepKeepsTheInvariant` speaks of. -/
theorem hw_inv : Inv (hw helloWorld) where
  buffers := ⟨by decide, by decide, rfl, rfl, rfl, fun _ => rfl, fun _ h => by cases h⟩
  status := ⟨by decide, by decide, fun _ => rfl, .inl ⟨rfl, rfl⟩, .inl ⟨rfl, rfl⟩, fun h => by cases h⟩

theorem witness_StepKeepsTheInvariant : Inv (hw helloWorld) ∧ ∃ t, step (hw helloWorld) = .next t := ⟨hw_inv, _, rfl⟩

/-- SEGV = 1 with nothing to build from but zeros: all inputs 0, an empty payload (T7). -/
theorem witness_StepKeepsSegmentValid :
    SegmentValid { State.reset with segv := true, len := 0x0008, csum := 0xFFDE } ∧
    ∃ t, step { State.reset with segv := true, len := 0x0008, csum := 0xFFDE } = .next t := by
  refine ⟨fun _ => ⟨[], ⟨rfl, fun k b h => absurd h (Nat.not_lt_zero k)⟩, rfl, by decide, by decide⟩, _, rfl⟩

theorem witness_LengthHoldsUntilAPlenWrite :
    (CommandIssued (planned State.reset [cmdWrite 0x07000000]) .mklen ∧
      ∃ t, step (planned State.reset [cmdWrite 0x07000000]) = .next t) ∧
    (Completes (running .build helloWorld) .build ∧ ∃ t, step (running .build helloWorld) = .next t) ∧
    LengthCurrent { State.reset with len := 8 } ∧ ¬ResetNext { State.reset with len := 8 } ∧
    ¬(({ State.reset with len := 8 } : State).busy = false ∧
      ∃ v rest, ({ State.reset with len := 8 } : State).schedule = .host (.write 0x0001C .word v) :: rest ∧
        v.toNat < 65536) := by
  refine ⟨⟨⟨rfl, _, _, rfl, rfl⟩, _, rfl⟩, ⟨⟨rfl, rfl, .inl rfl⟩, _, rfl⟩, rfl, ?_, ?_⟩
  · rintro ⟨rest, h⟩; cases h
  · rintro ⟨-, v, rest, h, -⟩; cases h

theorem witness_BusyIsSetAndClearedByItsRules :
    (∃ t, step (planned (hw []) [cmdWrite 0x10000000]) = .next t ∧ (planned (hw []) [cmdWrite 0x10000000]).busy = false ∧
      t.busy = true ∧ CommandIssued (planned (hw []) [cmdWrite 0x10000000]) .addbuf) ∧
    (∃ t, step (running .addbuf []) = .next t ∧ (running .addbuf []).busy = true ∧ t.busy = false ∧
      Completes (running .addbuf []) .addbuf) ∧
    ∃ t, step (planned (running .addbuf []) [.reset]) = .next t ∧ t.busy = false ∧
      ResetNext (planned (running .addbuf []) [.reset]) :=
  ⟨⟨_, rfl, rfl, rfl, rfl, _, _, rfl, rfl⟩, ⟨_, rfl, rfl, rfl, rfl, rfl, .inl rfl⟩, _, rfl, rfl, _, rfl⟩

theorem witness_DoneIsSetByCompletionsOnly :
    (∃ t, step (running .ser []) = .next t ∧ Completes (running .ser []) .ser ∧ (running .ser []).done = false ∧
      t.done = true) ∧
    ∃ t, step { State.reset with done := true, schedule := [.host (.write 0x00008 .word 0x2)] } = .next t ∧
      t.done = false ∧ (0x2 : Word).toNat / 2 % 2 = 1 :=
  ⟨⟨_, rfl, ⟨rfl, rfl, .inl rfl⟩, rfl, rfl⟩, _, rfl, rfl, rfl⟩

theorem witness_ResultRegistersHaveTheirWriters :
    (∃ t, step (planned State.reset [cmdWrite 0x07000000]) = .next t ∧ t.len ≠ State.reset.len) ∧
    ¬ResetNext (planned State.reset [cmdWrite 0x07000000]) ∧
    (∃ t, step (planned State.reset [cmdWrite 0x0A000000]) = .next t ∧ t.csum ≠ State.reset.csum) ∧
    ¬ResetNext (planned State.reset [cmdWrite 0x0A000000]) ∧
    (∃ t, step (running .ser []) = .next t ∧ t.olen ≠ (running .ser []).olen) ∧ ¬ResetNext (running .ser []) := by
  refine ⟨⟨_, rfl, by decide⟩, ?_, ⟨_, rfl, by decide⟩, ?_, ⟨_, rfl, by decide⟩, ?_⟩ <;> rintro ⟨rest, h⟩ <;> cases h

theorem witness_InputsAreFrozenInTheBusyWindow :
    ∃ t, step (planned (running .build helloWorld) [.host (.write 0x00014 .word 0x1)]) = .next t ∧
      (planned (running .build helloWorld) [.host (.write 0x00014 .word 0x1)]).busy = true ∧
      ¬ResetNext (planned (running .build helloWorld) [.host (.write 0x00014 .word 0x1)]) ∧ t.busy = true := by
  refine ⟨_, rfl, rfl, ?_, rfl⟩
  rintro ⟨rest, h⟩; cases h

/-- For `EngineCompletesEventually` and `SafeScheduleNeverStops`. -/
theorem witness_SafeSchedule :
    (running .build helloWorld).busy = true ∧ CommandInProgress (running .build helloWorld) ∧
    SafeSchedule (planned (running .build helloWorld) [.host (.read 0x00008 .word), .host (.write 0x3FFFC .word 0), .engine]) :=
  ⟨rfl, fun _ => rfl, by decide⟩

end Sys2Proof.Tests
end

section
/-! PROOFS. The block's window in the platform's address space (20_memory.md R60, R61). -/

namespace Sys2Proof.Machine

/-- 00_scope.md R8. -/
theorem base_mod_window : Config.base % 0x40000 = 0 := by
  unfold Config.base
  exact Nat.mul_mod_left _ _

/-- The addresses UDPCK decodes are BASE plus an 18-bit offset, and each such sum decodes to that offset alone. -/
theorem offsetOf_eq_some_iff {addr : Nat} {off : Offset} :
    offsetOf addr = some off ↔ addr = Config.base + off.toNat := by
  have hoff : off.toNat < 0x40000 := off.isLt
  unfold offsetOf
  split
  case isTrue hin =>
    rw [Option.some_inj, ← BitVec.toNat_inj, BitVec.toNat_ofNat]
    omega
  case isFalse hout =>
    constructor
    · rintro ⟨⟩
    · omega

/-- No 18-bit offset reaches an address outside the window. -/
theorem offsetOf_eq_none_of_outside {addr : Nat}
    (hout : addr < Config.base ∨ Config.base + 0x40000 ≤ addr) : offsetOf addr = none := by
  refine Option.eq_none_iff_forall_ne_some.mpr fun off hsome => ?_
  have hoff : off.toNat < 0x40000 := off.isLt
  have haddr : addr = Config.base + off.toNat := offsetOf_eq_some_iff.mp hsome
  omega

/-- Settles O41: BASE's alignment, and both directions of `offsetOf_eq_some_iff`. -/
theorem baseWindowDecodes : Obligations.BaseWindowDecodes :=
  ⟨base_mod_window, fun _ => offsetOf_eq_some_iff.mpr rfl, fun _ => offsetOf_eq_none_of_outside⟩

end Sys2Proof.Machine
end

section
/-! PROOFS. What a command's CMD write does outside a busy window, said once for the fourteen commands
(30_encoding.md R96). -/

namespace Sys2Proof.Machine

/-- No byte is left in PBYTE where none is pending (10_state.md R29). -/
def ByteStream.Settled (st : ByteStream) : Prop := st.pend = false → st.pbyte = 0

theorem ByteStream.settled_cleared : ByteStream.cleared.Settled := fun _ => rfl

theorem ByteStream.Settled.addWord {st : ByteStream} (h : st.Settled) (w : Half) : (st.addWord w).Settled := h

theorem ByteStream.Settled.addWords {st : ByteStream} (h : st.Settled) (ws : List Half) : (st.addWords ws).Settled := h

theorem ByteStream.settled_feed (st : ByteStream) (b : Byte) : (st.feed b).Settled := st.feed_pbyte b

theorem ByteStream.Settled.feedAll {st : ByteStream} (h : st.Settled) (bs : List Byte) : (st.feedAll bs).Settled := by
  induction bs generalizing st with
  | nil => exact h
  | cons b bs ih => exact ih (st.settled_feed b)

theorem ByteStream.Settled.flush {st : ByteStream} (h : st.Settled) : st.flush.Settled := by
  cases hp : st.pend
  · rwa [ByteStream.flush_empty hp]
  · rw [ByteStream.flush_pending hp]
    exact fun _ => rfl

/-- The command that starts a long operation (30_encoding.md R97). -/
def LongOp.command : LongOp → Instr
  | .addbuf => .addbuf
  | .build  => .build
  | .ser    => .ser

@[simp] theorem LongOp.isLong_command (op : LongOp) : op.command.isLong = true := by cases op <;> rfl

/-- What an accepted command can do to a state: six kinds of effect for the fourteen commands. -/
inductive CommandDid (s : State) : Instr → State → Prop
  /-- A command that works on the byte-stream set alone, or on nothing (40_checksum.md R118 to R126). -/
  | stream {i : Instr} {st : ByteStream} (hi : i.isLong = false) (hst : s.stream.Settled → st.Settled) :
      CommandDid s i (s.withStream st)
  /-- FIN (40_checksum.md R127). -/
  | fin : CommandDid s .fin
      { s.withStream s.stream.flush with csum := not16 s.stream.flush.acc, segv := false }
  /-- MKLEN (41_builder.md R151). -/
  | mklen : CommandDid s .mklen s.recordLength
  /-- The acceptance of a long command (30_encoding.md R96). -/
  | accept (op : LongOp) : CommandDid s op.command (s.acceptLong op)

theorem issue_of_idle {s : State} (hb : s.busy = false) (f : State → State) : issue s f = .next (f s) := by
  rw [issue, State.whenIdle_of_idle hb]

/-- Every command has a meaning outside a busy window, and it is one of `CommandDid`. -/
theorem exec_did (i : Instr) {s : State} (hb : s.busy = false) : ∃ t, exec i s = .next t ∧ CommandDid s i t := by
  have issued {f : State → State} (hd : CommandDid s i (f s)) : ∃ t, issue s f = .next t ∧ CommandDid s i t :=
    ⟨f s, issue_of_idle hb f, hd⟩
  cases i with
  | nop => exact issued (.stream rfl id)
  | clr => exact issued (.stream rfl fun _ => ByteStream.settled_cleared)
  | addw imm => exact issued (.stream rfl fun h => h.addWord imm)
  | addsa => exact issued (.stream rfl fun h => h.addWords _)
  | addda => exact issued (.stream rfl fun h => h.addWords _)
  | addports => exact issued (.stream rfl fun h => h.addWords _)
  | addlen => exact issued (.stream rfl fun h => h.addWord s.len)
  | mklen => exact issued .mklen
  | addb imm => exact issued (.stream rfl fun _ => s.stream.settled_feed imm)
  | flush => exact issued (.stream rfl fun h => h.flush)
  | fin => exact issued .fin
  | addbuf => exact issued (.accept .addbuf)
  | build => exact issued (.accept .build)
  | ser => exact issued (.accept .ser)

theorem commandDid_of_exec {i : Instr} {s t : State} (h : exec i s = .next t) (hb : s.busy = false) :
    CommandDid s i t := by
  obtain ⟨t', he, hd⟩ := exec_did i hb
  rw [he] at h
  cases h
  exact hd

end Sys2Proof.Machine
end

section
/-! PROOFS. The invariant of the machine: it holds after reset, and every step keeps it (10_state.md R26, R29, R38 to
R41, R45). -/

namespace Sys2Proof.Machine

theorem buffersOk_reset : BuffersOk State.reset where
  pbufWf := Memory.wf_unwritten
  pbufSize := rfl
  pbufDraws := rfl
  obufWf := Memory.wf_unwritten
  obufSize := rfl
  obufEmpty _ := rfl
  obufFilled _ h := nomatch h

theorem statusOk_reset : StatusOk State.reset where
  errcode := Nat.zero_le 4
  errNone := ⟨fun _ => rfl, fun _ => rfl⟩
  pending := ByteStream.settled_cleared
  length := .inl ⟨rfl, rfl⟩
  olen := .inl ⟨rfl, rfl⟩
  inFlight h := nomatch h

theorem inv_reset : Inv State.reset := ⟨buffersOk_reset, statusOk_reset⟩

theorem inv_applyReset (s : State) : Inv s.applyReset :=
  ⟨{ buffersOk_reset with }, { statusOk_reset with }⟩

/-- Each error has a code of its own in 1 to 4 (60_exceptions.md R191). -/
theorem ErrorCode.bits_range (e : ErrorCode) : e.bits ≠ 0 ∧ e.bits.toNat ≤ 4 := by cases e <;> decide

/-- The first error's code is kept, and it was no 0 (60_exceptions.md R195). -/
theorem StatusOk.raiseError {s : State} (h : StatusOk s) (e : ErrorCode) : StatusOk (s.raiseError e) := by
  obtain ⟨hne, hle⟩ := e.bits_range
  cases herr : s.err with
  | false =>
    exact { h with
      errcode := by simpa [herr] using hle
      errNone := by simpa [herr] using hne }
  | true =>
    have hcode : s.errcode ≠ 0 := fun h0 => by simp [h.errNone.mpr h0] at herr
    exact { h with
      errcode := by simpa [herr] using h.errcode
      errNone := by simpa [herr] using hcode }

/-- A STATUS write clears ERR and ERRCODE together or neither (10_state.md R23). -/
theorem StatusOk.writeStatus {s : State} (h : StatusOk s) (v : Word) : StatusOk (writeStatus v s) := by
  cases hv : v[2] with
  | false =>
    exact { h with
      errcode := by simpa [Machine.writeStatus, hv] using h.errcode
      errNone := by simpa [Machine.writeStatus, hv] using h.errNone }
  | true =>
    exact { h with
      errcode := by simp [Machine.writeStatus, hv]
      errNone := by simp [Machine.writeStatus, hv] }

/-- LEN and LOVF together hold the 17-bit total length (41_builder.md R151). -/
theorem lengthField_add_overflow (p : Half) :
    (lengthField p).toNat + (if lengthOverflow p then 65536 else 0) = 8 + p.toNat := by
  have hp := p.isLt
  simp only [lengthField_toNat, lengthOverflow_iff]
  split <;> omega

theorem ByteStream.settled_buildStream (s : State) (p : List Byte) : (buildStream s p).Settled :=
  ((ByteStream.settled_cleared.addWords _).feedAll p).flush

theorem headerBytes_length (sp dp len csum : Half) : (headerBytes sp dp len csum).length = hdrBytes := rfl

theorem BuffersOk.writePbuf {s : State} (h : BuffersOk s) {k : Nat} (hk : k + 4 ≤ pbufBytes) (v : Word) :
    BuffersOk (writePbuf k v s) :=
  { h with
    pbufWf := Memory.wf_writeBytes h.pbufWf k _
    pbufSize := Memory.within_writeBytes h.pbufSize hk
    pbufDraws := (Memory.unlisted_writeBytes ..).trans h.pbufDraws }

/-- SER's image fits OBUF: 8 header bytes and at most 65535 of payload (42_serializer.md R172). -/
theorem serImage_fits (s : State) :
    (headerBytes s.sport s.dport s.len s.csum ++ s.payload.1).length ≤ obufBytes := by
  have hp := s.plen.isLt
  simp only [List.length_append, headerBytes_length, State.payload_length, hdrBytes, obufBytes]
  omega

theorem BuffersOk.completeSer {s : State} (h : BuffersOk s) : BuffersOk (completeSer s) where
  pbufWf := h.pbufWf
  pbufSize := h.pbufSize
  pbufDraws := h.pbufDraws
  obufWf := Memory.wf_image _
  obufSize := Memory.within_image (serImage_fits s)
  obufEmpty h0 := nomatch h0
  obufFilled _ h0 := (Option.some.inj h0).symm

/-- An accepted command keeps the invariant. -/
theorem Inv.commandDid {s t : State} {i : Instr} (h : Inv s) (hd : CommandDid s i t) : Inv t := by
  obtain ⟨hbuf, hst⟩ := h
  cases hd with
  | stream _ hsettled => exact ⟨{ hbuf with }, { hst with pending := hsettled hst.pending }⟩
  | fin => exact ⟨{ hbuf with }, { hst with pending := ByteStream.Settled.flush hst.pending }⟩
  | mklen => exact ⟨{ hbuf with }, { hst with length := .inr ⟨s.plen, lengthField_add_overflow s.plen⟩ }⟩
  | accept op => exact ⟨{ hbuf with }, { hst with inFlight := fun _ => rfl }⟩

/-- The state as an event finds it: that event is off the schedule, and a write is already answered. -/
theorem Inv.dequeued {s : State} (h : Inv s) (rest : List Event) (r : Option Response) (d : Nat) :
    Inv { s with schedule := rest, response := r, draws := d } :=
  ⟨{ h.buffers with }, { h.status with }⟩

theorem Inv.completeAddbuf {s : State} (h : Inv s) : Inv (completeAddbuf s) :=
  ⟨{ h.buffers with },
    { h.status with pending := ByteStream.Settled.feedAll h.status.pending _, inFlight := fun hb => nomatch hb }⟩

theorem Inv.completeBuild {s : State} (h : Inv s) : Inv (completeBuild s) :=
  ⟨{ h.buffers with },
    { h.status with
      pending := ByteStream.settled_buildStream _ _
      length := .inr ⟨s.plen, lengthField_add_overflow s.plen⟩
      inFlight := fun hb => nomatch hb }⟩

theorem Inv.completeSer {s : State} (h : Inv s) : Inv (completeSer s) :=
  ⟨h.buffers.completeSer,
    { h.status with
      olen := .inr ⟨s.plen, totalLength_toNat s.plen, rfl⟩
      inFlight := fun hb => nomatch hb }⟩

/-- Settles O46: each of the things a step can do keeps the invariant. -/
theorem stepKeepsTheInvariant : Obligations.StepKeepsTheInvariant := by
  intro s t h hstep
  cases step_did hstep with
  | idle rest => exact h.dequeued rest s.response s.draws
  | read off rest _ v d => exact h.dequeued rest (some (.data v)) d
  | ignored _ _ rest => exact h.dequeued rest (some .ok) s.draws
  | error e _ _ rest =>
    have h := h.dequeued rest (some .ok) s.draws
    exact ⟨{ h.buffers with }, h.status.raiseError e⟩
  | command _ _ rest _ _ hb _ hexec =>
    have h := h.dequeued rest (some .ok) s.draws
    exact h.commandDid (commandDid_of_exec hexec hb)
  | ctrl | ports | saddr | daddr | plen => exact ⟨{ h.buffers with }, { h.status with }⟩
  | status v rest =>
    have h := h.dequeued rest (some .ok) s.draws
    exact ⟨{ h.buffers with }, h.status.writeStatus v⟩
  | pbuf _ k v rest _ hk =>
    have h := h.dequeued rest (some .ok) s.draws
    exact ⟨h.buffers.writePbuf hk v, { h.status with }⟩
  | addbuf rest => exact (h.dequeued rest s.response s.draws).completeAddbuf
  | build rest => exact (h.dequeued rest s.response s.draws).completeBuild
  | ser rest => exact (h.dequeued rest s.response s.draws).completeSer
  | reset => exact inv_applyReset _

end Sys2Proof.Machine
end

section
/-! PROOFS. End-around-carry sums are folds of exact sums, and the byte stream adds the payload's words
(40_checksum.md R110 to R117). -/

namespace Sys2Proof.Machine

/-- Enough iterations reach the residue of the sum modulo 65535, 65535 standing for every positive multiple
(40_checksum.md R113). -/
theorem foldLoop_eq {fuel s : Nat} (h : s ≤ fuel) :
    foldLoop fuel s = if s = 0 then 0 else (s - 1) % 65535 + 1 := by
  induction fuel generalizing s with
  | zero => simp [foldLoop, Nat.le_zero.mp h]
  | succ fuel ih =>
    rw [foldLoop]
    split
    · rw [ih (by omega)]
      split <;> split <;> omega
    · split <;> omega

theorem fold_eq (s : Nat) : fold s = if s = 0 then 0 else (s - 1) % 65535 + 1 := foldLoop_eq (Nat.le_refl s)

/-- Carries may be added back before or after the rest of a sum (40_checksum.md R114). -/
theorem fold_carry_add (n m : Nat) : fold (n % 65536 + n / 65536 + m) = fold (n + m) := by
  rw [fold_eq, fold_eq]
  split <;> split <;> omega

theorem eacSum_toNat (a : Half) (ws : List Half) : (eacSum a ws).toNat = fold (a.toNat + wideSum ws) := by
  induction ws generalizing a with
  | nil => simp [fold_of_lt a.isLt]
  | cons w ws ih => rw [eacSum_cons, ih, eac16_toNat, fold_carry_add, wideSum_cons, Nat.add_assoc]

/-- From an empty accumulator, the end-around-carry sum is the source's: one fold of the exact sum
(40_checksum.md R114). -/
theorem eacSum_zero (ws : List Half) : eacSum 0 ws = BitVec.ofNat 16 (fold (wideSum ws)) := by
  have h := eacSum_toNat 0 ws
  rw [show (0 : Half).toNat = 0 from rfl, Nat.zero_add] at h
  rw [← h, BitVec.ofNat_toNat, BitVec.setWidth_eq]

/-- Bytes fed with none pending and then flushed add the payload's words (40_checksum.md R112, R116, R117). -/
theorem ByteStream.flush_feedAll (acc : Half) (P : List Byte) :
    (({ acc := acc, pend := false, pbyte := 0 } : ByteStream).feedAll P).flush =
      { acc := eacSum acc (payloadWords P), pend := false, pbyte := 0 } := by
  induction P using payloadWords.induct generalizing acc with
  | case1 => rfl
  | case2 b => rfl
  | case3 b0 b1 t ih => exact ih (eac16 acc (be16 b0 b1))

/-- BUILD's accumulator is the sum of the nine fixed words and the payload's (41_builder.md R153). -/
theorem buildStream_eq (s : State) (P : List Byte) : buildStream s P =
    { acc := eacSum 0 (fixedWords s.sport s.dport s.saddr s.daddr s.len ++ payloadWords P)
      pend := false, pbyte := 0 } := by
  rw [eacSum_append]
  exact ByteStream.flush_feedAll _ P

theorem lengthField_eq_ofNat (plen : Half) : lengthField plen = BitVec.ofNat 16 (hdrBytes + plen.toNat) :=
  BitVec.eq_of_toNat_eq (by rw [lengthField_toNat, BitVec.toNat_ofNat, hdrBytes])

/-- BUILD's checksum is the source's (41_builder.md R155, 40_checksum.md R110). -/
theorem not16_buildStream_acc {s : State} {P : List Byte} (hlen : P.length = s.plen.toNat) :
    not16 (buildStream s.recordLength P).acc = csumRef P s.sport s.dport s.saddr s.daddr := by
  rw [buildStream_eq, eacSum_zero, csumRef, hlen, ← lengthField_eq_ofNat]
  rfl

/-- What the engine reads is a payload (10_state.md R40). -/
theorem isPayload_payload (s : State) : IsPayload s s.payload.1 :=
  ⟨s.payload_length, fun k _ hk hb => readBytes_written hk (by rwa [Nat.zero_add])⟩

end Sys2Proof.Machine
end

section
/-! PROOFS. What SEGV = 1 means: BUILD's completion makes it true, every write of an input clears SEGV, and nothing
else that it speaks of changes but LEN and LOVF by MKLEN, to the same values (10_state.md R28). -/

namespace Sys2Proof.Machine

theorem segmentValid_of_segv {s : State} (h : s.segv = false) : SegmentValid s := by
  intro h1
  rw [h] at h1
  cases h1

theorem segmentValid_completeBuild (s : State) : SegmentValid (completeBuild s) := fun _ =>
  ⟨s.payload.1, isPayload_payload s, lengthField_toNat s.plen, lengthOverflow_iff s.plen,
    not16_buildStream_acc s.payload_length⟩

theorem SegmentValid.recordLength {s : State} (h : SegmentValid s) : SegmentValid s.recordLength := by
  intro hv
  obtain ⟨P, hP, -, -, hc⟩ := h hv
  exact ⟨P, hP, lengthField_toNat s.plen, lengthOverflow_iff s.plen, hc⟩

/-- An accepted command keeps the meaning of SEGV: FIN, which overwrites CSUM, clears SEGV (40_checksum.md R127). -/
theorem SegmentValid.commandDid {s t : State} {i : Instr} (h : SegmentValid s) (hd : CommandDid s i t) :
    SegmentValid t := by
  cases hd with
  | stream => exact h
  | fin => exact segmentValid_of_segv rfl
  | mklen => exact h.recordLength
  | accept => exact h

/-- Settles O47: no step but BUILD's completion raises SEGV, and each writer of an input clears it. -/
theorem stepKeepsSegmentValid : Obligations.StepKeepsSegmentValid := by
  intro s t h hstep
  cases step_did hstep with
  | idle | read | ignored | error | ctrl | status | addbuf | ser => exact h
  | ports | saddr | daddr | plen | pbuf => exact segmentValid_of_segv rfl
  | command _ _ rest _ _ hb _ hexec =>
    have h' : SegmentValid { s with schedule := rest, response := some .ok } := h
    exact h'.commandDid (commandDid_of_exec hexec hb)
  | build => exact segmentValid_completeBuild _
  | reset => exact segmentValid_of_segv rfl

/-- Settles O45: SEGV is 0 after reset, and nothing is scheduled. -/
theorem resetMeetsTheInvariant : Obligations.ResetMeetsTheInvariant :=
  ⟨inv_reset, segmentValid_of_segv rfl, rfl⟩

end Sys2Proof.Machine
end

section
/-! PROOFS. Who writes BUSY, DONE and the result registers: the step of a command, a completion or a reset,
and for each field the only steps that change it (10_state.md R24, R25, R27, R34, R35, R38, R41). -/

namespace Sys2Proof.Machine

/-! ## The step of a named event -/

theorem applyReset_of_resetNext {s t : State} (h : ResetNext s) (hstep : step s = .next t) :
    ∃ u : State, t = u.applyReset := by
  obtain ⟨rest, hs⟩ := h
  rw [step_cons hs] at hstep
  cases hstep
  exact ⟨_, rfl⟩

theorem step_of_engineNext {s : State} (h : EngineNext s) :
    ∃ rest, step s = engineTurn { s with schedule := rest } := by
  rcases h with hs | ⟨rest, hs⟩
  · exact ⟨[], by rw [step_nil hs, ← hs]⟩
  · exact ⟨rest, step_cons hs⟩

/-- A long command's completion ends its busy window with DONE (10_state.md R24, R25). -/
theorem busy_done_of_completes {s t : State} {op : LongOp} (h : Completes s op) (hstep : step s = .next t) :
    t.busy = false ∧ t.done = true := by
  obtain ⟨hb, ho, hn⟩ := h
  obtain ⟨rest, hs⟩ := step_of_engineNext hn
  rw [hs] at hstep
  rcases engineTurn_cases hstep with ⟨hb', -⟩ | ⟨-, -, rfl⟩ | ⟨-, -, rfl⟩ | ⟨-, -, rfl⟩
  · exact absurd hb (by simp [show s.busy = false from hb'])
  all_goals exact ⟨rfl, rfl⟩

/-- A command's CMD write outside a busy window is its meaning (30_encoding.md R96). -/
theorem step_of_commandIssued {s : State} {i : Instr} (h : CommandIssued s i) :
    ∃ rest, step s = exec i { s with schedule := rest, response := some .ok } := by
  obtain ⟨hb, w, rest, hs, hd⟩ := h
  refine ⟨rest, ?_⟩
  rw [step_cons hs, cmdWrite, perform, access_cmdWrite]
  simp [issueCommand, hb, hd]

/-- An accepted command leaves BUSY set exactly if it is long (10_state.md R24). -/
theorem CommandDid.busy {s t : State} {i : Instr} (h : CommandDid s i t) (hb : s.busy = false) : t.busy = i.isLong := by
  cases h with
  | stream hi => exact hb.trans hi.symm
  | fin => exact hb
  | mklen => exact hb
  | accept op => exact op.isLong_command.symm

theorem CommandDid.done {s t : State} {i : Instr} (h : CommandDid s i t) : t.done = s.done := by cases h <;> rfl

/-- The STATUS write that clears DONE (10_state.md R25). -/
def DoneCleared (s : State) : Prop :=
  ∃ v rest, s.schedule = .host (.write 0x00008 .word v) :: rest ∧ v.toNat / 2 % 2 = 1

theorem getLsbD_one_iff (v : Word) : v.getLsbD 1 = true ↔ v.toNat / 2 % 2 = 1 := by
  rw [BitVec.getLsbD, Nat.testBit_eq_decide_div_mod_eq, decide_eq_true_eq]

theorem done_of_doneCleared {s t : State} (h : DoneCleared s) (hstep : step s = .next t) : t.done = false := by
  obtain ⟨v, rest, hs, hv⟩ := h
  rw [step_cons hs] at hstep
  have hw : perform (.host (.write 0x00008 .word v)) { s with schedule := rest } =
    .next (writeStatus v { s with schedule := rest, response := some .ok }) := rfl
  rw [hw] at hstep
  cases hstep
  exact if_pos ((getLsbD_one_iff v).mpr hv)

/-! ## The only steps that change a field -/

/-- BUSY stays, or rises by the acceptance of a long command, or falls by a completion or a reset (10_state.md R24). -/
theorem StepDid.busy_cases {s t : State} (h : StepDid s t) :
    t.busy = s.busy ∨ (t.busy = true ∧ ∃ i, i.isLong = true ∧ CommandIssued s i) ∨
    (t.busy = false ∧ (ResetNext s ∨ ∃ op, Completes s op)) := by
  cases h with
  | command i w rest hs hd hb _ hexec =>
    have htb : t.busy = i.isLong := (commandDid_of_exec hexec hb).busy hb
    cases hi : i.isLong with
    | false => exact .inl (by rw [htb, hi, hb])
    | true => exact .inr (.inl ⟨htb.trans hi, i, hi, hb, w, rest, hs, hd⟩)
  | addbuf _ hc => exact .inr (.inr ⟨rfl, .inr ⟨_, hc⟩⟩)
  | build _ hc => exact .inr (.inr ⟨rfl, .inr ⟨_, hc⟩⟩)
  | ser _ hc => exact .inr (.inr ⟨rfl, .inr ⟨_, hc⟩⟩)
  | reset rest hs => exact .inr (.inr ⟨rfl, .inl ⟨rest, hs⟩⟩)
  | _ => exact .inl rfl

/-- DONE stays, or rises by a completion, or falls by a reset or a STATUS write with bit 1 set (10_state.md R25). -/
theorem StepDid.done_cases {s t : State} (h : StepDid s t) :
    t.done = s.done ∨ (t.done = true ∧ ∃ op, Completes s op) ∨
    (t.done = false ∧ (ResetNext s ∨ DoneCleared s)) := by
  cases h with
  | command i _ rest _ _ hb _ hexec => exact .inl (commandDid_of_exec hexec hb).done
  | status v rest hs =>
    by_cases hv : v.getLsbD 1 = true
    · exact .inr (.inr ⟨if_pos hv, .inr ⟨v, rest, hs, (getLsbD_one_iff v).mp hv⟩⟩)
    · exact .inl (if_neg hv)
  | addbuf _ hc => exact .inr (.inl ⟨rfl, _, hc⟩)
  | build _ hc => exact .inr (.inl ⟨rfl, _, hc⟩)
  | ser _ hc => exact .inr (.inl ⟨rfl, _, hc⟩)
  | reset rest hs => exact .inr (.inr ⟨rfl, .inl ⟨rest, hs⟩⟩)
  | _ => exact .inl rfl

/-- MKLEN alone of the commands writes LEN and LOVF, FIN alone writes CSUM, and none OLEN or OBUF (10_state.md R34, R35,
R38, R41). -/
theorem CommandDid.results {s t : State} {i : Instr} (h : CommandDid s i t) :
    (i = .mklen ∨ t.len = s.len ∧ t.lovf = s.lovf) ∧ (i = .fin ∨ t.csum = s.csum) ∧
    t.olen = s.olen ∧ t.obuf = s.obuf := by
  cases h with
  | stream | accept => exact ⟨.inr ⟨rfl, rfl⟩, .inr rfl, rfl, rfl⟩
  | fin => exact ⟨.inr ⟨rfl, rfl⟩, .inl rfl, rfl, rfl⟩
  | mklen => exact ⟨.inl rfl, .inr rfl, rfl, rfl⟩

/-- Each result register stays, or its own command wrote it, or the step was a reset (10_state.md R27, R34, R35, R38,
R41). -/
theorem StepDid.results {s t : State} (h : StepDid s t) : ResetNext s ∨
    ((CommandIssued s .mklen ∨ Completes s .build) ∨ t.len = s.len ∧ t.lovf = s.lovf) ∧
    ((CommandIssued s .fin ∨ Completes s .build) ∨ t.csum = s.csum) ∧
    (Completes s .ser ∨ t.olen = s.olen ∧ t.obuf = s.obuf) := by
  cases h with
  | command i w rest hs hd hb _ hexec =>
    have issued {j : Instr} (hj : i = j) : CommandIssued s j := hj ▸ ⟨hb, w, rest, hs, hd⟩
    obtain ⟨hlen, hcsum, hout⟩ := (commandDid_of_exec hexec hb).results
    exact .inr ⟨hlen.imp_left (.inl <| issued ·), hcsum.imp_left (.inl <| issued ·), .inr hout⟩
  | build _ hc => exact .inr ⟨.inl (.inr hc), .inl (.inr hc), .inr ⟨rfl, rfl⟩⟩
  | ser _ hc => exact .inr ⟨.inr ⟨rfl, rfl⟩, .inr rfl, .inl hc⟩
  | reset rest hs => exact .inl ⟨rest, hs⟩
  | _ => exact .inr ⟨.inr ⟨rfl, rfl⟩, .inr rfl, .inr ⟨rfl, rfl⟩⟩

/-! ## The rules of BUSY, DONE and the result registers -/

/-- Settles O49: the named events by their own step, the rest by the only steps that change BUSY. -/
theorem busyIsSetAndClearedByItsRules : Obligations.BusyIsSetAndClearedByItsRules := by
  intro s t hstep
  have hcases := (step_did hstep).busy_cases
  refine ⟨fun i hi => ?_, ?_, fun hb ht => ?_, fun hb ht => ?_⟩
  · obtain ⟨rest, hs⟩ := step_of_commandIssued hi
    have hb : s.busy = false := hi.1
    exact (commandDid_of_exec (hs.symm.trans hstep) hb).busy hb
  · rintro (⟨op, hc⟩ | hr)
    · exact (busy_done_of_completes hc hstep).1
    · obtain ⟨u, rfl⟩ := applyReset_of_resetNext hr hstep
      rfl
  · simpa [ht, hb] using hcases
  · simpa [ht, hb] using hcases

/-- Settles O50: the named events by their own step, the rest by the only steps that change DONE. -/
theorem doneIsSetByCompletionsOnly : Obligations.DoneIsSetByCompletionsOnly := by
  intro s t hstep
  have hcases := (step_did hstep).done_cases
  refine ⟨fun ⟨op, hc⟩ => (busy_done_of_completes hc hstep).symm, fun hd ht => ?_, ?_, fun hd ht => ?_⟩
  · simpa [ht, hd] using hcases
  · rintro (hr | hclear)
    · obtain ⟨u, rfl⟩ := applyReset_of_resetNext hr hstep
      rfl
    · exact done_of_doneCleared hclear hstep
  · have hclear : ResetNext s ∨ DoneCleared s := by simpa [ht, hd] using hcases
    exact hclear

/-- Settles O51: by the only steps that change each result register. -/
theorem resultRegistersHaveTheirWriters : Obligations.ResultRegistersHaveTheirWriters := by
  intro s t hstep hreset
  obtain ⟨hlen, hcsum, hout⟩ := (step_did hstep).results.resolve_left hreset
  refine ⟨fun hne => hlen.resolve_right ?_, fun hne => hcsum.resolve_right hne, fun hne => hout.resolve_right ?_⟩
  · exact fun ⟨h1, h2⟩ => hne.elim (· h1) (· h2)
  · exact fun ⟨h1, h2⟩ => hne.elim (· h1) (· h2)

end Sys2Proof.Machine
end

section
/-! PROOFS. What a host read returns: STATUS, CTRL and PORTS as numbers, and in a busy window a free
draw for each field of the running command's write set (10_state.md R22, R23, R31, R44; 20_memory.md R76). -/

namespace Sys2Proof.Machine

/-! ## Words as numbers -/

theorem toNat_append_eq {m n : Nat} (a : BitVec m) (b : BitVec n) : (a ++ b).toNat = a.toNat * 2 ^ n + b.toNat := by
  rw [BitVec.toNat_append, ← Nat.shiftLeft_add_eq_or_of_lt b.isLt, Nat.shiftLeft_eq]

/-- The bits of STATUS (10_state.md R23). -/
theorem statusWord_eq_ofNat (s : State) (lovf pend segv : BitVec 1) : statusWord s lovf pend segv =
    BitVec.ofNat 32 (256 * s.errcode.toNat + 32 * segv.toNat + 16 * pend.toNat + 8 * lovf.toNat
      + 4 * s.err.toNat + 2 * s.done.toNat + s.busy.toNat) := by
  apply BitVec.eq_of_toNat_eq
  have := s.errcode.isLt
  have := lovf.isLt
  have := pend.isLt
  have := segv.isLt
  have := s.err.toNat_lt
  have := s.done.toNat_lt
  have := s.busy.toNat_lt
  simp only [statusWord, toNat_append_eq, BitVec.toNat_ofBool, BitVec.toNat_ofNat]
  omega

/-- The bits of CTRL (10_state.md R22). -/
theorem ctrlWord_eq_ofNat (s : State) : ctrlWord s = BitVec.ofNat 32 (2 * s.ieErr.toNat + s.ieDone.toNat) := by
  apply BitVec.eq_of_toNat_eq
  have := s.ieErr.toNat_lt
  have := s.ieDone.toNat_lt
  simp only [ctrlWord, toNat_append_eq, BitVec.toNat_ofBool, BitVec.toNat_ofNat]
  omega

/-- The halves of PORTS (10_state.md R31). -/
theorem portsWord_eq_ofNat (sp dp : Half) : sp ++ dp = BitVec.ofNat 32 (65536 * sp.toNat + dp.toNat) := by
  apply BitVec.eq_of_toNat_eq
  have := sp.isLt
  have := dp.isLt
  rw [toNat_append_eq, BitVec.toNat_ofNat]
  omega

/-! ## Reads in a busy window -/

/-- An aligned read answers what its region holds. -/
theorem access_read_of_region {s : State} {off : Offset} {r : Region} {v : Word} {n : Nat} (h4 : off.toNat % 4 = 0)
    (hr : regionAt off.toNat = r) (hv : readRegion r s = (v, s.draws + n)) :
    access (.read off .word) s = .next { s with response := some (.data v), draws := s.draws + n } := by
  rw [access_read s h4, hr, hv]

section WriteSets
variable (op : LongOp)

/-! BUILD alone writes LOVF, SEGV, LEN and CSUM; ADDBUF and BUILD write the byte-stream set; SER alone writes OLEN and
OBUF (10_state.md R44). -/

@[simp] theorem LongOp.writes_lovf : op.writes .lovf = decide (op = .build) := by cases op <;> rfl
@[simp] theorem LongOp.writes_segv : op.writes .segv = decide (op = .build) := by cases op <;> rfl
@[simp] theorem LongOp.writes_len : op.writes .len = decide (op = .build) := by cases op <;> rfl
@[simp] theorem LongOp.writes_csum : op.writes .csum = decide (op = .build) := by cases op <;> rfl
@[simp] theorem LongOp.writes_pend : op.writes .pend = decide (op ≠ .ser) := by cases op <;> rfl
@[simp] theorem LongOp.writes_acc : op.writes .acc = decide (op ≠ .ser) := by cases op <;> rfl
@[simp] theorem LongOp.writes_pbyte : op.writes .pbyte = decide (op ≠ .ser) := by cases op <;> rfl
@[simp] theorem LongOp.writes_olen : op.writes .olen = decide (op = .ser) := by cases op <;> rfl
@[simp] theorem LongOp.writes_obuf : op.writes .obuf = decide (op = .ser) := by cases op <;> rfl

end WriteSets

section FieldReads
variable {s : State} {op : LongOp} (hb : s.busy = true) (hop : s.busyOp = some op) {f : Field} {w : Nat} (x : BitVec w)
include hb hop

/-- A register that holds one field reads as a draw where the running command writes the field (20_memory.md R76). -/
theorem observe_widened_of_writes (hf : op.writes f = true) :
    ((s.observe f x s.draws).1.setWidth 32, (s.observe f x s.draws).2) =
      (BitVec.ofNat 32 (Config.freeDraw w (s.draws + 0)).toNat, s.draws + 1) := by
  rw [State.observe_hidden ((State.hides_of_busy hb hop f).trans hf), BitVec.ofNat_toNat]
  rfl

/-- It reads exactly where the running command does not write the field (20_memory.md R76). -/
theorem observe_widened_of_not_writes (hf : op.writes f = false) :
    ((s.observe f x s.draws).1.setWidth 32, (s.observe f x s.draws).2) = (x.setWidth 32, s.draws + 0) := by
  rw [State.observe_exact ((State.hides_of_busy hb hop f).trans hf), Nat.add_zero]

end FieldReads

/-- A register's read, at the register's offset. -/
theorem access_read_of_register (r : Reg) {s : State} {off : Offset} {v : Word} {n : Nat} (ho : off.toNat = r.offset)
    (hv : readReg r s = (v, s.draws + n)) :
    access (.read off .word) s = .next { s with response := some (.data v), draws := s.draws + n } :=
  access_read_of_region (r := .reg r) (by rw [ho]; cases r <;> rfl) (by rw [ho, regionAt_offset]) hv

/-- Settles O32: each register by the write sets of the three commands. -/
theorem busyWindowReadsAreDraws : Obligations.BusyWindowReadsAreDraws := by
  intro s op hb hop reads status draw
  have register (r : Reg) {off : Offset} {v : Word} {n : Nat} (ho : off.toNat = r.offset)
      (hv : readReg r s = (v, s.draws + n)) : reads off v n := access_read_of_register r ho hv
  have drawn {f : Field} {w : Nat} (x : BitVec w) := observe_widened_of_writes (f := f) hb hop x
  have exactly {f : Field} {w : Nat} (x : BitVec w) := observe_widened_of_not_writes (f := f) hb hop x
  have ports : readReg .ports s = (BitVec.ofNat 32 (65536 * s.sport.toNat + s.dport.toNat), s.draws + 0) := by
    rw [← portsWord_eq_ofNat]; rfl
  have ctrl : readReg .ctrl s = (BitVec.ofNat 32 (2 * s.ieErr.toNat + s.ieDone.toNat), s.draws + 0) := by
    rw [← ctrlWord_eq_ofNat]; rfl
  refine ⟨fun h => register .status rfl ?addbufStatus, fun h => register .status rfl ?buildStatus,
    fun h => register .status rfl ?serStatus,
    fun h => ⟨register .len rfl (drawn _ (by simp [h])), register .csum rfl (drawn _ (by simp [h]))⟩,
    fun h => ⟨register .len rfl (exactly _ (by simp [h])), register .csum rfl (exactly _ (by simp [h]))⟩,
    fun h => ⟨register .acc rfl (drawn _ (by simp [h])), register .pbyte rfl (drawn _ (by simp [h]))⟩,
    fun h => ⟨register .acc rfl (exactly _ (by simp [h])), register .pbyte rfl (exactly _ (by simp [h]))⟩,
    fun h => register .olen rfl (drawn _ (by simp [h])),
    fun h => register .olen rfl (exactly _ (by simp [h])),
    fun h off h4 hlo hhi => access_read_of_region h4 (regionAt_obuf hlo hhi) ?obufWord,
    register .id rfl rfl, register .ctrl rfl ctrl, register .cmd rfl rfl, register .ports rfl ports,
    register .saddr rfl rfl, register .daddr rfl rfl, register .plen rfl rfl⟩
  case obufWord => simp [readRegion, State.hides_of_busy hb hop, h, draw]
  case addbufStatus | buildStatus | serStatus =>
    simp [readReg, State.observe, State.hides_of_busy hb hop, statusWord_eq_ofNat, hb, h, status, draw]

/-! ## The interrupt and reset -/

/-- Settles O43: IRQ's own definition, read as propositions. -/
theorem interruptFollowsEnabledCauses : Obligations.InterruptFollowsEnabledCauses := by
  intro s
  rw [State.irq, Bool.or_eq_true, Bool.and_eq_true, Bool.and_eq_true]

/-- Settles O44: the state after reset is what a reset event makes of itself. -/
theorem resetGivesTheTable : Obligations.ResetGivesTheTable := by
  intro s t h
  obtain ⟨u, rfl⟩ : ∃ u : State, t = u.applyReset := by
    rcases h with h | rfl
    · cases h
      exact ⟨s, rfl⟩
    · exact ⟨State.reset, rfl⟩
  refine ⟨rfl, rfl, rfl, rfl, rfl, rfl, rfl, rfl, rfl, rfl, rfl, rfl, rfl, rfl, rfl, rfl, rfl, rfl, rfl, rfl,
    Memory.read_unwritten, Memory.read_unwritten, rfl, ?_⟩
  exact access_read _ rfl

end Sys2Proof.Machine
end

section
/-! PROOFS. Bus words as numbers and as four bytes, and what one byte or one window word of a buffer is seen as
(20_memory.md R67 to R69, R72). -/

namespace Sys2Proof.Machine

/-! ## Parts of a bus word -/

theorem extractLsb'_eq_ofNat_div (v : Word) (start len : Nat) :
    v.extractLsb' start len = BitVec.ofNat len (v.toNat / 2 ^ start) := by
  rw [BitVec.extractLsb', Nat.shiftRight_eq_div_pow]

theorem hiHalf_eq_ofNat (v : Word) : hiHalf v = BitVec.ofNat 16 (v.toNat / 65536) := extractLsb'_eq_ofNat_div v 16 16

theorem loHalf_eq_ofNat (v : Word) : loHalf v = BitVec.ofNat 16 v.toNat :=
  BitVec.eq_of_toNat_eq (by simp [loHalf_toNat])

theorem hiHalf_ne_zero_iff (v : Word) : hiHalf v ≠ 0 ↔ 65536 ≤ v.toNat := by
  rw [ne_eq, ← BitVec.toNat_inj, hiHalf_toNat, show (0 : Half).toNat = 0 from rfl]
  omega

theorem getLsbD_eq_decide (v : Word) (i : Nat) : v.getLsbD i = decide (v.toNat / 2 ^ i % 2 = 1) := by
  rw [BitVec.getLsbD, Nat.testBit_eq_decide_div_mod_eq]

/-- The four bytes of a bus word, the highest first (20_memory.md R72). -/
theorem wordBytes_eq_ofNat (v : Word) : wordBytes v =
    [BitVec.ofNat 8 (v.toNat / 16777216), BitVec.ofNat 8 (v.toNat / 65536), BitVec.ofNat 8 (v.toNat / 256),
      BitVec.ofNat 8 v.toNat] := by
  simp only [wordBytes, extractLsb'_eq_ofNat_div, Nat.reducePow, Nat.div_one]

/-- Four bytes side by side, the first in bits 31:24 (20_memory.md R72). -/
theorem fourBytes_eq_ofNat (b0 b1 b2 b3 : Byte) : b0 ++ b1 ++ b2 ++ b3 =
    BitVec.ofNat 32 (16777216 * b0.toNat + 65536 * b1.toNat + 256 * b2.toNat + b3.toNat) := by
  apply BitVec.eq_of_toNat_eq
  have := b0.isLt
  have := b1.isLt
  have := b2.isLt
  have := b3.isLt
  simp only [toNat_append_eq, BitVec.toNat_ofNat]
  omega

/-- A bus word is made of its own four bytes. -/
theorem fourBytes_of_word (v : Word) :
    BitVec.ofNat 8 (v.toNat / 16777216) ++ BitVec.ofNat 8 (v.toNat / 65536) ++ BitVec.ofNat 8 (v.toNat / 256)
      ++ BitVec.ofNat 8 v.toNat = v := by
  rw [fourBytes_eq_ofNat]
  apply BitVec.eq_of_toNat_eq
  have := v.isLt
  simp only [BitVec.toNat_ofNat]
  omega

/-! ## What a read of a buffer sees -/

theorem readByte_seen (m : Memory) (a d : Nat) : ByteSeen m a d (readByte m a d).1 (readByte m a d).2 := by
  cases h : m.read a with
  | none => rw [readByte_of_unwritten h]; exact .inr ⟨h, rfl, rfl⟩
  | some b => rw [readByte_of_written h]; exact .inl ⟨h, rfl⟩

/-- A byte costs at most one draw. -/
theorem ByteSeen.draws_le {m : Memory} {a d d' : Nat} {b : Byte} (h : ByteSeen m a d b d') : d ≤ d' ∧ d' ≤ d + 1 := by
  rcases h with ⟨-, rfl⟩ | ⟨-, -, rfl⟩ <;> omega

/-- A window word is the four bytes seen one after another, the lowest index in bits 31:24 (20_memory.md R67, R69). -/
theorem readWindow_seen (m : Memory) (k d : Nat) : ∃ b0 b1 b2 b3 d0 d1 d2 d3,
    ByteSeen m k d b0 d0 ∧ ByteSeen m (k + 1) d0 b1 d1 ∧ ByteSeen m (k + 2) d1 b2 d2 ∧ ByteSeen m (k + 3) d2 b3 d3 ∧
    readWindow m k d =
      (BitVec.ofNat 32 (16777216 * b0.toNat + 65536 * b1.toNat + 256 * b2.toNat + b3.toNat), d3) :=
  ⟨_, _, _, _, _, _, _, _, readByte_seen .., readByte_seen .., readByte_seen .., readByte_seen ..,
    by rw [← fourBytes_eq_ofNat]; rfl⟩

theorem readWindow_draws_le (m : Memory) (k d : Nat) : d ≤ (readWindow m k d).2 ∧ (readWindow m k d).2 ≤ d + 4 := by
  obtain ⟨b0, b1, b2, b3, d0, d1, d2, d3, h0, h1, h2, h3, hw⟩ := readWindow_seen m k d
  have := h0.draws_le
  have := h1.draws_le
  have := h2.draws_le
  have := h3.draws_le
  rw [hw]
  omega

/-- OBUF is hidden in SER's busy window alone (10_state.md R44). -/
theorem State.hides_obuf_eq_false {s : State} (h : ¬(s.busy = true ∧ s.busyOp = some .ser)) :
    s.hides .obuf = false := by
  cases hb : s.busy with
  | false => exact State.hides_of_idle hb .obuf
  | true =>
    cases hop : s.busyOp with
    | none => simp [State.hides, hb, hop]
    | some op => simpa [State.hides_of_busy hb hop, hb, hop] using h

end Sys2Proof.Machine
end

section
/-! PROOFS. Host reads: the value and the draws of every region (20_memory.md R64, R67, R69, R70, R74). -/

namespace Sys2Proof.Machine

theorem access_read_of_readRegion {s : State} {off : Offset} {r : Region} {v : Word} {d : Nat}
    (h4 : off.toNat % 4 = 0) (hr : regionAt off.toNat = r) (hv : readRegion r s = (v, d)) :
    access (.read off .word) s = .next { s with response := some (.data v), draws := d } := by
  rw [access_read s h4, hr, hv]

/-! ## The draws of a read -/

/-- A field costs at most one draw. -/
theorem State.observe_draws_le (s : State) (f : Field) {w : Nat} (x : BitVec w) (d : Nat) :
    d ≤ (s.observe f x d).2 ∧ (s.observe f x d).2 ≤ d + 1 := by
  cases h : s.hides f with
  | false => rw [State.observe_exact h]; omega
  | true => rw [State.observe_hidden h]; omega

/-- STATUS shows three fields that may be hidden, every other register at most one (20_memory.md R76). -/
theorem readReg_draws_le (r : Reg) (s : State) : s.draws ≤ (readReg r s).2 ∧ (readReg r s).2 ≤ s.draws + 3 := by
  have field (f : Field) {w : Nat} (x : BitVec w) :
      s.draws ≤ (s.observe f x s.draws).2 ∧ (s.observe f x s.draws).2 ≤ s.draws + 3 :=
    (s.observe_draws_le f x s.draws).imp_right (Nat.le_trans · (by omega))
  cases r with
  | id | ctrl | cmd | ports | saddr | daddr | plen => exact ⟨Nat.le_refl _, Nat.le_add_right _ 3⟩
  | status =>
    have hlovf := s.observe_draws_le .lovf (BitVec.ofBool s.lovf) s.draws
    have hpend := s.observe_draws_le .pend (BitVec.ofBool s.stream.pend)
      (s.observe .lovf (BitVec.ofBool s.lovf) s.draws).2
    have hsegv := s.observe_draws_le .segv (BitVec.ofBool s.segv) (s.observe .pend (BitVec.ofBool s.stream.pend)
      (s.observe .lovf (BitVec.ofBool s.lovf) s.draws).2).2
    simp only [readReg]
    omega
  | len => exact field .len s.len
  | csum => exact field .csum s.csum
  | acc => exact field .acc s.stream.acc
  | pbyte => exact field .pbyte s.stream.pbyte
  | olen => exact field .olen s.olen

theorem readRegion_draws_le (r : Region) (s : State) :
    s.draws ≤ (readRegion r s).2 ∧ (readRegion r s).2 ≤ s.draws + 4 := by
  cases r with
  | reg r => exact (readReg_draws_le r s).imp_right (Nat.le_trans · (by omega))
  | pbuf k => exact readWindow_draws_le s.pbuf k s.draws
  | obuf k =>
    simp only [readRegion]
    split
    · exact ⟨Nat.le_add_right _ 1, Nat.add_le_add_left (by decide) _⟩
    · exact readWindow_draws_le s.obuf k s.draws
  | reserved => exact ⟨Nat.le_refl _, Nat.le_add_right _ 4⟩

/-- Settles O40: a read's frame, and the draws of its region. -/
theorem readsHaveNoSideEffects : Obligations.ReadsHaveNoSideEffects :=
  fun s off h4 => ⟨_, _, access_read s h4, readRegion_draws_le (regionAt off.toNat) s⟩

/-! ## Registers and reserved offsets -/

/-- A register that holds one field reads exactly outside a busy window (20_memory.md R64). -/
theorem observe_widened_of_idle {s : State} (hb : s.busy = false) (f : Field) {w : Nat} (x : BitVec w) :
    ((s.observe f x s.draws).1.setWidth 32, (s.observe f x s.draws).2) = (BitVec.ofNat 32 x.toNat, s.draws + 0) := by
  rw [State.observe_exact (State.hides_of_idle hb f), BitVec.ofNat_toNat, Nat.add_zero]

theorem readReg_status_of_idle {s : State} (hb : s.busy = false) : readReg .status s =
    (BitVec.ofNat 32 (256 * s.errcode.toNat + 32 * s.segv.toNat + 16 * s.stream.pend.toNat + 8 * s.lovf.toNat
      + 4 * s.err.toNat + 2 * s.done.toNat + s.busy.toNat), s.draws + 0) := by
  simp only [readReg, State.observe_exact (State.hides_of_idle hb _), statusWord_eq_ofNat, BitVec.toNat_ofBool,
    Nat.add_zero]

theorem access_read_of_reserved (s : State) {off : Offset} (h4 : off.toNat % 4 = 0)
    (hr : regionAt off.toNat = .reserved) :
    access (.read off .word) s = .next { s with response := some (.data 0) } :=
  access_read_of_readRegion h4 hr rfl

/-- Settles O31: each register by its own offset, outside a busy window with no draw. -/
theorem registerReadTable : Obligations.RegisterReadTable := by
  intro s hb reads
  have register (r : Reg) {off : Offset} {n : Nat} (ho : off.toNat = r.offset)
      (hv : readReg r s = (BitVec.ofNat 32 n, s.draws + 0)) : reads off n := access_read_of_register r ho hv
  have field (f : Field) {w : Nat} (x : BitVec w) := observe_widened_of_idle hb f x
  have exactly {w : Nat} (x : BitVec w) : (x.setWidth 32, s.draws) = (BitVec.ofNat 32 x.toNat, s.draws + 0) := by
    rw [BitVec.ofNat_toNat, Nat.add_zero]
  have word (x : Word) : (x, s.draws) = (BitVec.ofNat 32 x.toNat, s.draws + 0) := by
    rw [BitVec.ofNat_toNat, BitVec.setWidth_eq, Nat.add_zero]
  have ctrl : readReg .ctrl s = (BitVec.ofNat 32 (2 * s.ieErr.toNat + s.ieDone.toNat), s.draws + 0) := by
    rw [← ctrlWord_eq_ofNat]; rfl
  have ports : readReg .ports s = (BitVec.ofNat 32 (65536 * s.sport.toNat + s.dport.toNat), s.draws + 0) := by
    rw [← portsWord_eq_ofNat]; rfl
  exact ⟨register .id rfl rfl, register .ctrl rfl ctrl, register .status rfl (readReg_status_of_idle hb),
    register .cmd rfl rfl, register .ports rfl ports, register .saddr rfl (word _), register .daddr rfl (word _),
    register .plen rfl (exactly _), register .len rfl (field .len _), register .csum rfl (field .csum _),
    register .acc rfl (field .acc _), register .pbyte rfl (field .pbyte _), register .olen rfl (field .olen _),
    fun off h4 hlo hhi => access_read_of_reserved s h4 (regionAt_reserved (.inl ⟨hlo, hhi⟩))⟩

/-! ## The windows -/

/-- Settles O33: both windows by `readWindow_seen`. -/
theorem windowReadsAreBigEndian : Obligations.WindowReadsAreBigEndian := by
  intro s off h4 reads
  have window {m : Memory} {r : Region} {k : Nat} (hr : regionAt off.toNat = r)
      (hv : readRegion r s = readWindow m k s.draws) : reads m k := by
    obtain ⟨b0, b1, b2, b3, d0, d1, d2, d3, h0, h1, h2, h3, hw⟩ := readWindow_seen m k s.draws
    exact ⟨b0, b1, b2, b3, d0, d1, d2, d3, h0, h1, h2, h3, access_read_of_readRegion h4 hr (hv.trans hw)⟩
  refine ⟨fun hlo hhi => window (regionAt_pbuf hlo hhi) rfl, fun hlo hhi hser => window (regionAt_obuf hlo hhi) ?_⟩
  rw [readRegion, State.hides_obuf_eq_false hser]
  rfl

end Sys2Proof.Machine
end

section
/-! PROOFS. Host writes: the effect at every offset, the accesses that are bus errors, and the order of events
(20_memory.md R63, R65, R66, R68 to R70, R75). -/

namespace Sys2Proof.Machine

theorem access_write_of_region {s : State} {off : Offset} {r : Region} (v : Word) (h4 : off.toNat % 4 = 0)
    (hr : regionAt off.toNat = r) :
    access (.write off .word v) s = writeRegion r v { s with response := some .ok } := by
  rw [access_write s v h4, hr]

/-- A register's write, at the register's offset. -/
theorem access_write_of_register (r : Reg) {s : State} {off : Offset} (v : Word) (ho : off.toNat = r.offset) :
    access (.write off .word v) s = writeReg r v { s with response := some .ok } :=
  access_write_of_region (r := .reg r) v (by rw [ho]; cases r <;> rfl) (by rw [ho, regionAt_offset])

/-! ## Read-only registers and reserved offsets -/

/-- The registers that ignore a write (20_memory.md R65). -/
def readOnlyRegs : List Reg := [.id, .len, .csum, .acc, .pbyte, .olen]

/-- The registers that take a write (20_memory.md R65). -/
def writableRegs : List Reg := [.ctrl, .status, .cmd, .ports, .saddr, .daddr, .plen]

theorem mem_readOnlyRegs_of_not_writable {r : Reg} (h : r ∉ writableRegs) : r ∈ readOnlyRegs := by
  cases r <;> revert h <;> decide

theorem writeReg_of_readOnly {r : Reg} (h : r ∈ readOnlyRegs) (v : Word) (s : State) : writeReg r v s = .next s := by
  simp only [readOnlyRegs, List.mem_cons, List.not_mem_nil, or_false] at h
  rcases h with rfl | rfl | rfl | rfl | rfl | rfl <;> rfl

/-- The register region holds registers and reserved offsets, and nothing else (20_memory.md R61). -/
theorem regionAt_of_lt {n : Nat} (h : n < 0x10000) : regionAt n = .reserved ∨ ∃ r, regionAt n = .reg r := by
  rw [regionAt, if_pos h]
  cases regAt n with
  | none => exact .inl rfl
  | some r => exact .inr ⟨r, rfl⟩

/-- Settles O37: by the region the address map gives. -/
theorem reservedOffsetsReadZero : Obligations.ReservedOffsetsReadZero := fun s _ v h4 hin =>
  have hr := regionAt_reserved hin
  ⟨access_read_of_reserved s h4 hr, access_write_of_region v h4 hr⟩

/-- Settles O38: the six registers by `writeReg_of_readOnly`, the OBUF window by its region. -/
theorem readOnlyWritesAreIgnored : Obligations.ReadOnlyWritesAreIgnored := by
  intro s off v h4 hin
  rcases hin with hreg | ⟨hlo, hhi⟩
  · obtain ⟨r, hr, ho⟩ := List.mem_map.mp (show off.toNat ∈ readOnlyRegs.map Reg.offset from hreg)
    rw [access_write_of_register r v ho.symm, writeReg_of_readOnly hr]
  · exact access_write_of_region v h4 (regionAt_obuf hlo hhi)

/-! ## The register table -/

theorem writeCtrl_eq (v : Word) (s : State) : writeCtrl v s =
    { s with ieDone := decide (v.toNat % 2 = 1), ieErr := decide (v.toNat / 2 % 2 = 1) } := by
  simp only [writeCtrl, getLsbD_eq_decide, Nat.reducePow, Nat.div_one]

theorem writeStatus_eq (v : Word) (s : State) : writeStatus v s =
    { s with
      done := if v.toNat / 2 % 2 = 1 then false else s.done
      err := if v.toNat / 4 % 2 = 1 then false else s.err
      errcode := if v.toNat / 4 % 2 = 1 then 0 else s.errcode } := by
  simp only [writeStatus, getLsbD_eq_decide, Nat.reducePow, decide_eq_true_eq]

theorem writePorts_eq (v : Word) (s : State) : writePorts v s =
    { s with
      sport := BitVec.ofNat 16 (v.toNat / 65536), dport := BitVec.ofNat 16 (v.toNat % 65536), segv := false } := by
  have hlo : loHalf v = BitVec.ofNat 16 (v.toNat % 65536) := by
    rw [← loHalf_toNat, BitVec.ofNat_toNat, BitVec.setWidth_eq]
  rw [writePorts, hiHalf_eq_ofNat, hlo]

/-- The range check of PLEN, as a bound (60_exceptions.md R196). -/
theorem writePlen_eq (v : Word) (s : State) : writePlen v s =
    if 65536 ≤ v.toNat then s.raiseError .range
    else { s with plen := BitVec.ofNat 16 v.toNat, segv := false } := by
  simp only [writePlen, hiHalf_ne_zero_iff, loHalf_eq_ofNat]

/-- Settles O34: each writable register by its own offset; the other offsets are read-only registers or reserved. -/
theorem registerWriteTable : Obligations.RegisterWriteTable := by
  intro s v answered refused writes
  have register (r : Reg) {off : Offset} (ho : off.toNat = r.offset) :
      access (.write off .word v) s = writeReg r v answered := access_write_of_register r v ho
  refine ⟨(register .ctrl rfl).trans ?ctrl, (register .status rfl).trans ?status, register .cmd rfl,
    (register .ports rfl).trans ?ports, register .saddr rfl, register .daddr rfl, (register .plen rfl).trans ?plen,
    fun off h4 hlt hout => ?others⟩
  case ctrl => rw [writeReg, writeCtrl_eq]
  case status => rw [writeReg, writeStatus_eq]
  case ports => rw [writeReg, State.whenIdle, writePorts_eq]; rfl
  case plen => rw [writeReg, State.whenIdle, writePlen_eq]; rfl
  case others =>
    rcases regionAt_of_lt hlt with hr | ⟨r, hr⟩
    · exact access_write_of_region v h4 hr
    · have ho := offset_of_regionAt hr
      have hro : r ∈ readOnlyRegs := mem_readOnlyRegs_of_not_writable fun hw =>
        hout (show off.toNat ∈ writableRegs.map Reg.offset from ho ▸ List.mem_map_of_mem hw)
      exact (register r ho).trans (writeReg_of_readOnly hro v answered)

/-! ## The PBUF window -/

/-- The four bytes that a PBUF write leaves, each at its own index (20_memory.md R68). -/
theorem read_writeBytes_wordBytes (m : Memory) (k : Nat) (v : Word) :
    (m.writeBytes k (wordBytes v)).read k = some (BitVec.ofNat 8 (v.toNat / 16777216)) ∧
    (m.writeBytes k (wordBytes v)).read (k + 1) = some (BitVec.ofNat 8 (v.toNat / 65536)) ∧
    (m.writeBytes k (wordBytes v)).read (k + 2) = some (BitVec.ofNat 8 (v.toNat / 256)) ∧
    (m.writeBytes k (wordBytes v)).read (k + 3) = some (BitVec.ofNat 8 v.toNat) := by
  rw [wordBytes_eq_ofNat]
  exact ⟨m.read_writeBytes_same k _ (k := 0) (by simp), m.read_writeBytes_same k _ (k := 1) (by simp),
    m.read_writeBytes_same k _ (k := 2) (by simp), m.read_writeBytes_same k _ (k := 3) (by simp)⟩

/-- A word written to a window is read back from it, with no draw. -/
theorem readWindow_writeBytes_wordBytes (m : Memory) (k : Nat) (v : Word) (d : Nat) :
    readWindow (m.writeBytes k (wordBytes v)) k d = (v, d) := by
  obtain ⟨h0, h1, h2, h3⟩ := read_writeBytes_wordBytes m k v
  rw [readWindow_of_written h0 h1 h2 h3, fourBytes_of_word]

/-- Settles O36: the guard of the write, the laws of `writeBytes`, and the word read back. -/
theorem pbufWriteThenRead : Obligations.PbufWriteThenRead := by
  intro s v off h4 hlo hhi
  have hr : regionAt off.toNat = .pbuf (off.toNat - 0x10000) := regionAt_pbuf hlo hhi
  have hwrite : access (.write off .word v) s =
      .next (State.whenIdle { s with response := some .ok } (writePbuf (off.toNat - 0x10000) v)) :=
    access_write_of_region v h4 hr
  refine ⟨fun hb => ?_, fun hb => ⟨s.pbuf.writeBytes (off.toNat - 0x10000) (wordBytes v), ?_, ?_⟩⟩
  · rw [hwrite, State.whenIdle_of_busy (s := { s with response := some .ok }) hb]
    rfl
  · rw [hwrite, State.whenIdle_of_idle (s := { s with response := some .ok }) hb]
    rfl
  · obtain ⟨h0, h1, h2, h3⟩ := read_writeBytes_wordBytes s.pbuf (off.toNat - 0x10000) v
    refine ⟨h0, h1, h2, h3, fun a ha => Memory.read_writeBytes_other _ _ _ ha, fun t ht => ?_⟩
    refine access_read_of_readRegion h4 hr ?_
    rw [readRegion, ht, readWindow_writeBytes_wordBytes]

/-! ## Bus errors and the schedule -/

/-- Every command answers, in a busy window and outside one (30_encoding.md R96). -/
theorem exec_answers (i : Instr) (s : State) : ∃ t, exec i s = .next t := by
  cases hb : s.busy with
  | false =>
    obtain ⟨t, ht, -⟩ := exec_did i hb
    exact ⟨t, ht⟩
  | true => exact ⟨_, exec_of_busy i hb⟩

theorem issueCommand_answers (v : Word) (s : State) : ∃ t, issueCommand v s = .next t := by
  rcases issueCommand_cases v s with ⟨-, h⟩ | ⟨-, e, -, h⟩ | ⟨-, i, -, h⟩
  · exact ⟨_, h⟩
  · exact ⟨_, h⟩
  · rw [h]
    exact exec_answers i s

theorem writeRegion_answers (r : Region) (v : Word) (s : State) : ∃ t, writeRegion r v s = .next t := by
  cases r with
  | pbuf | obuf | reserved => exact ⟨_, rfl⟩
  | reg r =>
    cases r with
    | cmd => exact issueCommand_answers v s
    | _ => exact ⟨_, rfl⟩

theorem access_of_not_accepted {off : Offset} {size : AccessSize} (h : accepted off size = false) (v : Word) (s : State) :
    access (.read off size) s = .fault .busErr ∧ access (.write off size v) s = .fault .busErr := by
  simp [access, h]

/-- Settles O39: the two outcomes of the alignment and width check. -/
theorem narrowOrMisalignedIsABusError : Obligations.NarrowOrMisalignedIsABusError := by
  intro s off size v
  refine ⟨fun hbad => access_of_not_accepted ?_ v s, ?_⟩
  · simpa only [accepted, Bool.and_eq_false_iff, decide_eq_false_iff_not] using hbad
  · rintro rfl h4
    refine ⟨⟨_, access_read s h4⟩, ?_⟩
    rw [access_write s v h4]
    exact writeRegion_answers _ v _

/-- Settles O9: the equations of `step` and of an idle engine. -/
theorem stepFollowsTheSchedule : Obligations.StepFollowsTheSchedule := fun _ =>
  ⟨fun _ _ => step_cons, fun _ => step_cons, fun _ => step_cons, step_nil, engineTurn_idle⟩

end Sys2Proof.Machine
end

section
/-! PROOFS. Command words: the decoder and the encoder are inverse to each other, and they agree with the opcode table
and the assembler (30_encoding.md R91 to R102). -/

namespace Sys2Proof.Machine

/-! ## Fields of a command word as numbers -/

theorem opField_toNat (v : Word) : (opField v).toNat = v.toNat / 2 ^ 24 := by
  have := v.isLt
  rw [opField, extractLsb'_eq_ofNat_div, BitVec.toNat_ofNat]
  omega

theorem imm16Field_toNat (v : Word) : (imm16Field v).toNat = v.toNat % 2 ^ 16 := loHalf_toNat v

theorem imm8Field_toNat (v : Word) : (imm8Field v).toNat = v.toNat % 2 ^ 8 := by
  rw [imm8Field, BitVec.extractLsb'_toNat, Nat.shiftRight_zero]

/-- A field is clear when its number is. -/
theorem extractLsb'_eq_zero_iff (v : Word) (start len : Nat) :
    v.extractLsb' start len = 0 ↔ v.toNat / 2 ^ start % 2 ^ len = 0 := by
  rw [extractLsb'_eq_ofNat_div, ← BitVec.toNat_inj, BitVec.toNat_ofNat]
  rfl

theorem decodeN_eq (v : Word) (i : Instr) :
    decodeN v i = if v.toNat % 2 ^ 24 = 0 then .ok i else .error .reservedBits := by
  simp only [decodeN, extractLsb'_eq_zero_iff, pow_zero, Nat.div_one]

theorem decodeW_eq (v : Word) (mk : Half → Instr) :
    decodeW v mk = if v.toNat / 2 ^ 16 % 2 ^ 8 = 0 then .ok (mk (imm16Field v)) else .error .reservedBits := by
  simp only [decodeW, extractLsb'_eq_zero_iff]

theorem decodeB_eq (v : Word) (mk : Byte → Instr) :
    decodeB v mk = if v.toNat / 2 ^ 8 % 2 ^ 16 = 0 then .ok (mk (imm8Field v)) else .error .reservedBits := by
  simp only [decodeB, extractLsb'_eq_zero_iff]

/-- An immediate below a single set bit adds to it. -/
theorem twoPow_or_setWidth_toNat {n k : Nat} (imm : BitVec n) (hn : n ≤ k) (hk : k < 32) :
    (BitVec.ofNat 32 (2 ^ k) ||| imm.setWidth 32).toNat = 2 ^ k + imm.toNat := by
  have himm : imm.toNat < 2 ^ k := Nat.lt_of_lt_of_le imm.isLt (Nat.pow_le_pow_right (by decide) hn)
  have hor := Nat.two_pow_add_eq_or_of_lt himm 1
  rw [Nat.mul_one] at hor
  rw [BitVec.toNat_or, BitVec.toNat_setWidth_of_le (by omega), BitVec.toNat_ofNat,
    Nat.mod_eq_of_lt (Nat.pow_lt_pow_right (by decide) hk), hor]

theorem encode_addw_toNat (imm : Half) : (encode (.addw imm)).toNat = 0x02000000 + imm.toNat :=
  twoPow_or_setWidth_toNat (k := 25) imm (by decide) (by decide)

theorem encode_addb_toNat (imm : Byte) : (encode (.addb imm)).toNat = 0x08000000 + imm.toNat :=
  twoPow_or_setWidth_toNat (k := 27) imm (by decide) (by decide)

/-! ## What the decoder can do -/

/-- The opcode of a command (30_encoding.md R91). -/
def opcodeOf (i : Instr) : Nat := (encode i).toNat / 2 ^ 24

/-- The opcodes of the commands of format N (30_encoding.md R97). -/
def formatNOpcodes : List Nat := [0x00, 0x01, 0x03, 0x04, 0x05, 0x06, 0x07, 0x09, 0x0A, 0x10, 0x11, 0x12]

/-- A command without an immediate is its opcode over 24 zero bits (30_encoding.md R92). -/
theorem opcode_of_formatN {i : Instr} (h : i.mnemonic.format = .N) :
    opcodeOf i ∈ formatNOpcodes ∧ (encode i).toNat = opcodeOf i * 2 ^ 24 := by
  cases i with
  | addw | addb => cases h
  | _ => decide

theorem decode_of_opcode_addw {v : Word} (h : v.toNat / 2 ^ 24 = 0x02) : decode v = decodeW v .addw := by
  rw [decode, opField_toNat, h]; rfl

theorem decode_of_opcode_addb {v : Word} (h : v.toNat / 2 ^ 24 = 0x08) : decode v = decodeB v .addb := by
  rw [decode, opField_toNat, h]; rfl

/-- The opcode selects the format, and nothing but a legal opcode does (30_encoding.md R96 to R98). -/
theorem decode_cases (v : Word) :
    (∃ i, decode v = decodeN v i ∧ i.mnemonic.format = .N ∧ v.toNat / 2 ^ 24 = opcodeOf i) ∨
    (decode v = decodeW v .addw ∧ v.toNat / 2 ^ 24 = 0x02) ∨
    (decode v = decodeB v .addb ∧ v.toNat / 2 ^ 24 = 0x08) ∨
    (decode v = .error .illegalOpcode ∧
      ((0x0B ≤ v.toNat / 2 ^ 24 ∧ v.toNat / 2 ^ 24 ≤ 0x0F) ∨ 0x13 ≤ v.toNat / 2 ^ 24)) := by
  have hop := opField_toNat v
  unfold decode
  split
  case h_3 h => exact .inr (.inl ⟨rfl, hop.symm.trans h⟩)
  case h_9 h => exact .inr (.inr (.inl ⟨rfl, hop.symm.trans h⟩))
  case h_15 =>
    refine .inr (.inr (.inr ⟨rfl, ?_⟩))
    simp only [imp_false] at *
    omega
  all_goals next h => exact .inl ⟨_, rfl, rfl, hop.symm.trans h⟩

/-! ## The round trip -/

/-- Settles O1: a word of format N is a literal, and an immediate is the low field of its word. -/
theorem decodeOfEncode : Obligations.DecodeOfEncode := by
  intro i
  cases i with
  | addw imm =>
    have hv := encode_addw_toNat imm
    have himm := imm.isLt
    have hfield : imm16Field (encode (.addw imm)) = imm := BitVec.eq_of_toNat_eq (by rw [imm16Field_toNat]; omega)
    rw [decode_of_opcode_addw (by omega), decodeW_eq, if_pos (by omega), hfield]
  | addb imm =>
    have hv := encode_addb_toNat imm
    have himm := imm.isLt
    have hfield : imm8Field (encode (.addb imm)) = imm := BitVec.eq_of_toNat_eq (by rw [imm8Field_toNat]; omega)
    rw [decode_of_opcode_addb (by omega), decodeB_eq, if_pos (by omega), hfield]
  | _ => rfl

/-- Settles O2: the opcode, the clear reserved bits and the immediate are the whole word. -/
theorem encodeOfDecode : Obligations.EncodeOfDecode := by
  intro v i h
  apply BitVec.eq_of_toNat_eq
  rcases decode_cases v with ⟨j, hd, hN, hop⟩ | ⟨hd, hop⟩ | ⟨hd, hop⟩ | ⟨hd, -⟩
  · rw [hd, decodeN_eq] at h
    split at h
    · cases h
      have hword := (opcode_of_formatN hN).2
      omega
    · cases h
  · rw [hd, decodeW_eq] at h
    split at h
    · cases h
      rw [encode_addw_toNat, imm16Field_toNat]
      omega
    · cases h
  · rw [hd, decodeB_eq] at h
    split at h
    · cases h
      rw [encode_addb_toNat, imm8Field_toNat]
      omega
    · cases h
  · rw [hd] at h
    cases h

/-! ## The opcode table -/

/-- Every command's word selects a row of the command (30_encoding.md R97). -/
theorem encode_selects_row : ∀ i : Instr, Laws.EncodesItsRow.Statement i
  | .nop => Laws.EncodesItsRow.nop
  | .clr => Laws.EncodesItsRow.clr
  | .addw imm => Laws.EncodesItsRow.addw imm
  | .addsa => Laws.EncodesItsRow.addsa
  | .addda => Laws.EncodesItsRow.addda
  | .addports => Laws.EncodesItsRow.addports
  | .addlen => Laws.EncodesItsRow.addlen
  | .mklen => Laws.EncodesItsRow.mklen
  | .addb imm => Laws.EncodesItsRow.addb imm
  | .flush => Laws.EncodesItsRow.flush
  | .fin => Laws.EncodesItsRow.fin
  | .addbuf => Laws.EncodesItsRow.addbuf
  | .build => Laws.EncodesItsRow.build
  | .ser => Laws.EncodesItsRow.ser

/-- A line of format N without an operand is a command, and the row of its mnemonic fixes all 32 bits. -/
theorem assemble_formatN {m : Mnemonic} (h : m.format = .N) :
    ∃ i, assemble ⟨m, none⟩ = some i ∧ i.mnemonic = m ∧
      ∀ r ∈ opcodeTable, r.mnemonic = m → r.mask = BitVec.allOnes 32 ∧ r.matchBits = encode i ∧ r.long = i.isLong := by
  cases m with
  | ADDW | ADDB => cases h
  | _ => exact ⟨_, rfl, rfl, by decide⟩

/-- A word is its high bits under a mask and its `n` low bits. -/
theorem highBits_or_lowBits {w : Nat} (v : BitVec w) (n : Nat) :
    v &&& (BitVec.allOnes w <<< n) ||| (v.extractLsb' 0 n).setWidth w = v := by
  ext i hi
  by_cases h : i < n <;> simp [h, hi]

/-- A row selects the words of its command alone (30_encoding.md R97). -/
theorem exists_encode_of_selected {v : Word} {r : OpcodeRow} (hr : r ∈ opcodeTable) (h : v &&& r.mask = r.matchBits) :
    ∃ i, encode i = v ∧ i.mnemonic = r.mnemonic ∧ i.isLong = r.long := by
  cases hf : r.mnemonic.format with
  | N =>
    obtain ⟨i, -, hm, hrow⟩ := assemble_formatN hf
    obtain ⟨hmask, hmatch, hlong⟩ := hrow r hr rfl
    rw [hmask, BitVec.and_allOnes, hmatch] at h
    exact ⟨i, h.symm, hm, hlong.symm⟩
  | W =>
    have only : ∀ r ∈ opcodeTable, r.mnemonic.format = .W → r = ⟨.ADDW, 0x02000000, BitVec.allOnes 32 <<< 16, false⟩ := by
      decide
    obtain rfl := only r hr hf
    exact ⟨.addw (imm16Field v), (congrArg (· ||| _) h.symm).trans (highBits_or_lowBits v 16), rfl, rfl⟩
  | B =>
    have only : ∀ r ∈ opcodeTable, r.mnemonic.format = .B → r = ⟨.ADDB, 0x08000000, BitVec.allOnes 32 <<< 8, false⟩ := by
      decide
    obtain rfl := only r hr hf
    exact ⟨.addb (imm8Field v), (congrArg (· ||| _) h.symm).trans (highBits_or_lowBits v 8), rfl, rfl⟩

/-- Settles O3: both directions go through the command's word, by the round trip. -/
theorem decodeFollowsTheOpcodeTable : Obligations.DecodeFollowsTheOpcodeTable := by
  intro v
  constructor
  · intro r hr h
    obtain ⟨i, rfl, hm, hlong⟩ := exists_encode_of_selected hr h
    exact ⟨i, decodeOfEncode i, hm, hlong⟩
  · intro i hd
    obtain ⟨r, hr, hm, -, hsel⟩ := encode_selects_row i
    rw [encodeOfDecode v i hd] at hsel
    exact ⟨r, hr, hm, beq_iff_eq.mp hsel⟩

/-- Settles O4: each word is a literal. -/
theorem writtenWordsDecode : Obligations.WrittenWordsDecode :=
  ⟨rfl, rfl, rfl, rfl, rfl, rfl, rfl, rfl, rfl, rfl, rfl, rfl⟩

/-! ## The assembler -/

theorem assemble_addw (n : Nat) :
    assemble ⟨.ADDW, some n⟩ = if n ≤ 65535 then some (.addw (BitVec.ofNat 16 n)) else none := by
  by_cases h : n ≤ 65535 <;> simp [assemble, AsmLine.wf, Mnemonic.format, h]

theorem assemble_addb (n : Nat) :
    assemble ⟨.ADDB, some n⟩ = if n ≤ 255 then some (.addb (BitVec.ofNat 8 n)) else none := by
  by_cases h : n ≤ 255 <;> simp [assemble, AsmLine.wf, Mnemonic.format, h]

theorem assemble_formatN_operand {m : Mnemonic} (h : m.format = .N) (n : Nat) : assemble ⟨m, some n⟩ = none := by
  simp [assemble, AsmLine.wf, h]

/-- Settles O5: the two range checks, and the rows of format N. -/
theorem assemblerRefusesAndEncodesExactly : Obligations.AssemblerRefusesAndEncodesExactly := by
  refine ⟨fun n => ?addwRefused, fun n => ?addbRefused, fun n i h => ?addwWord, fun n i h => ?addbWord,
    fun m hm => ⟨assemble_formatN_operand hm, ?formatN⟩⟩
  case addwRefused => simp [assemble_addw]
  case addbRefused => simp [assemble_addb]
  case addwWord =>
    rw [assemble_addw] at h
    split at h
    · cases h
      rw [encode_addw_toNat, BitVec.toNat_ofNat]
      omega
    · cases h
  case addbWord =>
    rw [assemble_addb] at h
    split at h
    · cases h
      rw [encode_addb_toNat, BitVec.toNat_ofNat]
      omega
    · cases h
  case formatN =>
    obtain ⟨i, ha, him, hrow⟩ := assemble_formatN hm
    obtain ⟨r, hr, hrm, -⟩ := encode_selects_row i
    have hrm : r.mnemonic = m := hrm.trans him
    exact ⟨i, ha, him, r, hr, hrm, (hrow r hr hrm).2.1.symm⟩

end Sys2Proof.Machine
end

section
/-! PROOFS. A CMD write: the command it runs, and the words it refuses (30_encoding.md R96, R98, R99). -/

namespace Sys2Proof.Machine

/-! ## Words that are no command -/

/-- A word that is no command records its error and does nothing else (30_encoding.md R98, R99). -/
theorem access_cmdWrite_of_error {v : Word} {s : State} {e : DecodeError} (hb : s.busy = false)
    (hd : decode v = .error e) : access (.write cmdOffset .word v) s =
      .next { s with
        response := some .ok, err := true, errcode := if s.err then s.errcode else (decodeErrorCode e).bits } := by
  rw [access_cmdWrite, issueCommand, hb, hd]
  rfl

/-- Settles O6: no legal opcode is in the range. -/
theorem illegalOpcodeIsRefused : Obligations.IllegalOpcodeIsRefused := by
  intro v s hb hill
  refine access_cmdWrite_of_error (e := .illegalOpcode) hb ?_
  rcases decode_cases v with ⟨i, -, hN, hop⟩ | ⟨-, hop⟩ | ⟨-, hop⟩ | ⟨hd, -⟩
  · have hmem := (opcode_of_formatN hN).1
    simp only [formatNOpcodes, ← hop, List.mem_cons, List.not_mem_nil, or_false] at hmem
    omega
  · omega
  · omega
  · exact hd

/-- Settles O7: the opcode fixes the format, and the format's reserved field is not clear. -/
theorem reservedBitsAreRefused : Obligations.ReservedBitsAreRefused := by
  intro v s hb hbits
  refine access_cmdWrite_of_error (e := .reservedBits) hb ?_
  simp only [List.mem_cons, List.not_mem_nil, or_false] at hbits
  rcases decode_cases v with ⟨i, hd, -, -⟩ | ⟨hd, hop⟩ | ⟨hd, hop⟩ | ⟨-, hill⟩
  · rw [hd, decodeN_eq, if_neg (by omega)]
  · rw [hd, decodeW_eq, if_neg (by omega)]
  · rw [hd, decodeB_eq, if_neg (by omega)]
  · omega

/-! ## Words that are a command -/

/-- The issue of a command's word is the command, in a busy window too (30_encoding.md R96). -/
theorem issueCommand_of_decode {v : Word} {i : Instr} (hd : decode v = .ok i) (s : State) :
    issueCommand v s = exec i s := by
  cases hb : s.busy with
  | true => rw [exec_of_busy i hb, issueCommand, if_pos hb]
  | false => rw [issueCommand, hb, hd]; rfl

/-- A step whose next event is the CMD write of a command's word. -/
theorem step_cmdWrite {s : State} {w : Word} {i : Instr} {rest : List Event} (hs : s.schedule = cmdWrite w :: rest)
    (hd : decode w = .ok i) : step s = exec i { s with schedule := rest, response := some .ok } := by
  rw [step_cons hs, ← issueCommand_of_decode hd]
  exact access_cmdWrite w _

theorem withFetchWord_of_word (s : State) (w : Word) :
    s.withFetchWord 32 w.toNat = { s with schedule := cmdWrite w :: s.schedule } := by
  rw [State.withFetchWord, Nat.mod_eq_of_lt w.isLt, BitVec.ofNat_toNat, BitVec.setWidth_eq]

/-- Settles O8: the step of a CMD write, for any schedule and for `withFetchWord`'s. -/
theorem commandWriteRunsTheCommand : Obligations.CommandWriteRunsTheCommand :=
  ⟨fun _ _ _ _ => step_cmdWrite, fun s w _ hd => by rw [withFetchWord_of_word]; exact step_cmdWrite rfl hd⟩

end Sys2Proof.Machine
end

section
/-! PROOFS. The fold and the end-around-carry accumulator as arithmetic: the closed form, the accumulator's sums, and
what depends on the sum alone (40_checksum.md R113, R114). -/

namespace Sys2Proof.Machine

/-! ## The fold -/

/-- One iteration keeps the fold (40_checksum.md R113). -/
theorem fold_iteration (n : Nat) : fold (n % 65536 + n / 65536) = fold n := fold_carry_add n 0

/-- The fold of a positive number is its representative in 1 to 65535 modulo 65535 (40_checksum.md R113). -/
theorem fold_of_pos {n : Nat} (h : 1 ≤ n) : 1 ≤ fold n ∧ fold n ≤ 65535 ∧ fold n % 65535 = n % 65535 := by
  rw [fold_eq, if_neg (by omega)]
  omega

/-- Settles O10: the closed form is `fold_eq`, and the range and the residue follow from it. -/
theorem foldHasItsClosedForm : Obligations.FoldHasItsClosedForm := by
  intro n
  have hclosed : fold n = if n = 0 then 0 else 1 + (n - 1) % 0xFFFF := by rw [fold_eq, Nat.add_comm 1]
  exact ⟨fun h => ⟨by omega, (fold_iteration n).symm⟩, fold_of_lt, hclosed, fold_of_pos⟩

/-! ## The accumulator -/

/-- One end-around-carry sum is a fold (40_checksum.md R114). -/
theorem eac16_toNat_eq_fold (a w : Half) : (eac16 a w).toNat = fold (a.toNat + w.toNat) := eacSum_toNat a [w]

/-- The accumulator, as a word, after any list of words (40_checksum.md R114). -/
theorem eacSum_eq_ofNat_fold (a : Half) (ws : List Half) :
    eacSum a ws = BitVec.ofNat 16 (fold (a.toNat + wideSum ws)) := by
  rw [← eacSum_toNat, BitVec.ofNat_toNat, BitVec.setWidth_eq]

/-- The accumulator depends on the sum of the words alone (40_checksum.md R114). -/
theorem eacSum_congr_wideSum (a : Half) {ws vs : List Half} (h : wideSum ws = wideSum vs) :
    eacSum a ws = eacSum a vs := by
  rw [eacSum_eq_ofNat_fold, h, ← eacSum_eq_ofNat_fold]

/-- Two lists of words may be added in either order (40_checksum.md R130). -/
theorem eacSum_right_comm (a : Half) (ws vs : List Half) : eacSum (eacSum a ws) vs = eacSum (eacSum a vs) ws := by
  rw [← eacSum_append, ← eacSum_append]
  exact eacSum_congr_wideSum a (by rw [wideSum_append, wideSum_append, Nat.add_comm])

theorem eac16_zero (a : Half) : eac16 a 0 = a :=
  BitVec.eq_of_toNat_eq ((eac16_toNat_eq_fold a 0).trans (fold_of_lt a.isLt))

/-- 0xFFFF stands for 0, so a nonzero word replaces it (40_checksum.md R114). -/
theorem eac16_allOnes {w : Half} (h : w ≠ 0) : eac16 0xFFFF w = w := by
  have hpos : w.toNat ≠ 0 := fun h0 => h (BitVec.eq_of_toNat_eq h0)
  have hlt := w.isLt
  apply BitVec.eq_of_toNat_eq
  rw [eac16_toNat, show (0xFFFF : Half).toNat = 65535 from rfl]
  omega

/-- Settles O11: by the fold of the exact sum, and the two corner values by evaluation. -/
theorem accumulatorSumsAreFolds : Obligations.AccumulatorSumsAreFolds :=
  ⟨eac16_toNat_eq_fold, eacSum_toNat, fun a _ _ => eacSum_congr_wideSum a, eac16_zero, fun _ => eac16_allOnes,
    rfl, rfl⟩

end Sys2Proof.Machine
end

section
/-! PROOFS. The addition commands: the words each one adds, and why their order does not matter
(40_checksum.md R111, R120 to R125, R130). -/

namespace Sys2Proof.Machine

/-! ## One command -/

/-- The commands that add words past the byte stream (40_checksum.md R120 to R124). -/
def IsAddition (i : Instr) : Prop := i = .addsa ∨ i = .addda ∨ i = .addports ∨ i = .addlen ∨ ∃ w, i = .addw w

/-- The words an addition command adds, in order; no words for another command (40_checksum.md R120 to R124). -/
def addedWords (s : State) : Instr → List Half
  | .addw imm => [imm]
  | .addsa    => addressWords s.saddr
  | .addda    => addressWords s.daddr
  | .addports => portWords s
  | .addlen   => [s.len]
  | _         => []

theorem exec_of_isAddition {i : Instr} (hi : IsAddition i) {s : State} (hb : s.busy = false) :
    exec i s = .next (s.withStream (s.stream.addWords (addedWords s i))) := by
  rcases hi with rfl | rfl | rfl | rfl | ⟨w, rfl⟩
  all_goals exact issue_of_idle hb _

theorem wideSum_addressWords (a : Word) : wideSum (addressWords a) = a.toNat / 65536 + a.toNat % 65536 := by
  simp [addressWords, hiHalf_toNat, loHalf_toNat]

theorem wideSum_portWords (s : State) : wideSum (portWords s) = s.sport.toNat + s.dport.toNat := by
  rw [portWords, wideSum_cons, wideSum_cons, wideSum_nil, Nat.add_zero]

/-- An addition command folds the exact sum of ACC and its words (40_checksum.md R114). -/
theorem exec_addition_fold {i : Instr} (hi : IsAddition i) {s : State} (hb : s.busy = false) {n : Nat}
    (hn : wideSum (addedWords s i) = n) : exec i s = .next { s with
      stream := { s.stream with acc := BitVec.ofNat 16 (fold (s.stream.acc.toNat + n)) } } := by
  rw [exec_of_isAddition hi hb, ByteStream.addWords, eacSum_eq_ofNat_fold, hn]
  rfl

/-- Settles O18: each command by the sum of its words. -/
theorem additionCommandsFoldTheirWords : Obligations.AdditionCommandsFoldTheirWords := fun s hb =>
  ⟨fun imm => exec_addition_fold (by simp [IsAddition]) hb (wideSum_cons imm []),
    exec_addition_fold (by simp [IsAddition]) hb (wideSum_addressWords s.saddr),
    exec_addition_fold (by simp [IsAddition]) hb (wideSum_addressWords s.daddr),
    exec_addition_fold (by simp [IsAddition]) hb (wideSum_portWords s),
    exec_addition_fold (by simp [IsAddition]) hb (wideSum_cons s.len [])⟩

/-! ## Groups of commands -/

/-- What may change places: one addition command, or two ADDB that complete a word from an empty byte stream
(40_checksum.md R130). -/
inductive AdditionGroup (pend : Bool) : List Instr → Prop
  | command {i : Instr} (hi : IsAddition i) : AdditionGroup pend [i]
  | bytePair (hp : pend = false) (a b : Byte) : AdditionGroup pend [.addb a, .addb b]

/-- The words a group adds, in order. -/
def groupWords (s : State) : List Instr → List Half
  | [i]                => addedWords s i
  | [.addb a, .addb b] => [be16 a b]
  | _                  => []

/-- What a group, its operands those of `s`, makes of a byte-stream set: a byte pair also leaves PBYTE = 0. -/
def ByteStream.addGroup (s : State) (st : ByteStream) (g : List Instr) : ByteStream :=
  { acc := eacSum st.acc (groupWords s g), pend := st.pend, pbyte := if g.length = 2 then 0 else st.pbyte }

theorem ByteStream.addGroup_right_comm (s : State) (st : ByteStream) (g h : List Instr) :
    (st.addGroup s g).addGroup s h = (st.addGroup s h).addGroup s g := by
  simp only [ByteStream.addGroup, eacSum_right_comm st.acc (groupWords s g), ByteStream.mk.injEq, true_and]
  split <;> split <;> rfl

/-- The operands of a group are no part of what it changes. -/
theorem ByteStream.addGroup_of_operands (s : State) (r : Option Response) (st : ByteStream) :
    ByteStream.addGroup { s with response := r, stream := st } = ByteStream.addGroup s := by
  have hadded (i : Instr) : addedWords { s with response := r, stream := st } i = addedWords s i := by cases i <;> rfl
  have hwords (g : List Instr) : groupWords { s with response := r, stream := st } g = groupWords s g := by
    unfold groupWords
    split
    · exact hadded _
    · rfl
    · rfl
  funext st' g
  rw [ByteStream.addGroup, hwords, ByteStream.addGroup]

theorem step_cmd {s : State} {i : Instr} {rest : List Event} (hs : s.schedule = cmd i :: rest) :
    step s = exec i { s with schedule := rest, response := some .ok } := step_cmdWrite hs (decodeOfEncode i)

theorem step_cmd_of_isAddition {i : Instr} (hi : IsAddition i) {s : State} (hb : s.busy = false) (rest : List Event) :
    step { s with schedule := cmd i :: rest } = .next { s with
      schedule := rest, response := some .ok, stream := s.stream.addWords (addedWords s i) } := by
  rw [step_cmd rfl, exec_of_isAddition hi (s := { s with schedule := rest, response := some .ok }) hb]
  rcases hi with rfl | rfl | rfl | rfl | ⟨w, rfl⟩
  all_goals rfl

theorem step_cmd_addb {s : State} (hb : s.busy = false) (b : Byte) (rest : List Event) :
    step { s with schedule := cmd (.addb b) :: rest } = .next { s with
      schedule := rest, response := some .ok, stream := s.stream.feed b } := by
  rw [step_cmd rfl]
  exact issue_of_idle (s := { s with schedule := rest, response := some .ok }) hb _

/-- The CMD writes of one group. -/
theorem runsTo_group {s : State} {g : List Instr} (hb : s.busy = false) (hg : AdditionGroup s.stream.pend g)
    (rest : List Event) : runsTo { s with schedule := g.map cmd ++ rest } g.length
      { s with schedule := rest, response := some .ok, stream := s.stream.addGroup s g } := by
  cases hg with
  | command hi => exact runsTo_succ (step_cmd_of_isAddition hi hb rest) (runsTo_zero _)
  | bytePair hp a b =>
    have hpair : (s.stream.feed a).feed b = s.stream.addGroup s [.addb a, .addb b] := by
      rw [ByteStream.feed_first hp, ByteStream.feed_second rfl, ByteStream.addGroup, hp]
      rfl
    have second := step_cmd_addb (s := { s with response := some .ok, stream := s.stream.feed a }) hb b rest
    exact runsTo_succ (step_cmd_addb hb a _) (runsTo_succ second (hpair ▸ runsTo_zero _))

/-- The state after the CMD writes of all the groups. -/
def afterGroups (s : State) (l : List (List Instr)) : State :=
  { s with
    schedule := []
    response := if l.isEmpty then s.response else some .ok
    stream := l.foldl (ByteStream.addGroup s) s.stream }

theorem runsTo_groups {l : List (List Instr)} {s : State} (hb : s.busy = false)
    (hl : ∀ g ∈ l, AdditionGroup s.stream.pend g) :
    runsTo { s with schedule := l.flatten.map cmd } l.flatten.length (afterGroups s l) := by
  induction l generalizing s with
  | nil => exact runsTo_zero _
  | cons g l ih =>
    obtain ⟨hg, hl⟩ := List.forall_mem_cons.mp hl
    have htail := ih (s := { s with response := some .ok, stream := s.stream.addGroup s g }) hb hl
    have hafter : afterGroups { s with response := some .ok, stream := s.stream.addGroup s g } l =
        afterGroups s (g :: l) := by
      simp [afterGroups, ByteStream.addGroup_of_operands]
    rw [hafter] at htail
    rw [List.flatten_cons, List.map_append, List.length_append]
    exact runsTo_append (runsTo_group hb hg _) htail

theorem afterGroups_perm (s : State) {l l' : List (List Instr)} (hp : l.Perm l') :
    afterGroups s l = afterGroups s l' := by
  rw [afterGroups, hp.isEmpty_eq,
    hp.foldl_eq' (fun g _ h _ st => st.addGroup_right_comm s g h) s.stream, afterGroups]

/-- Groups in any order leave one state (40_checksum.md R130). -/
theorem runsTo_groups_perm {s : State} {l l' : List (List Instr)} (hb : s.busy = false) (hp : l.Perm l')
    (hl : ∀ g ∈ l, AdditionGroup s.stream.pend g) :
    ∃ t, runsTo { s with schedule := l.flatten.map cmd } l.flatten.length t ∧
      runsTo { s with schedule := l'.flatten.map cmd } l'.flatten.length t :=
  ⟨afterGroups s l, runsTo_groups hb hl,
    afterGroups_perm s hp ▸ runsTo_groups hb fun g hg => hl g (hp.mem_iff.mpr hg)⟩

/-- Settles O12: the addition commands alone are groups of one command. -/
theorem additionOrderDoesNotMatter : Obligations.AdditionOrderDoesNotMatter := by
  constructor
  · intro s l l' hb hp hl
    have hflat (k : List Instr) : (k.map fun i => [i]).flatten = k := k.flatMap_singleton'
    have hgroups : ∀ g ∈ l.map fun i => [i], AdditionGroup s.stream.pend g :=
      List.forall_mem_map.mpr fun i hi => .command (hl i hi)
    simpa only [hflat] using runsTo_groups_perm hb (hp.map fun i => [i]) hgroups
  · intro s l l' hb hpend hp hl
    refine runsTo_groups_perm hb hp fun g hg => ?_
    rcases hl g hg with rfl | rfl | rfl | rfl | ⟨w, rfl⟩ | ⟨a, b, rfl⟩
    case inr.inr.inr.inr.inr => exact .bytePair hpend a b
    all_goals exact .command (by simp [IsAddition])

end Sys2Proof.Machine
end

section
/-! PROOFS. The byte stream and ADDBUF's completion: which words a byte list adds, and the payload read without draws
where the host wrote it (40_checksum.md R116, R117, R129, R131). -/

namespace Sys2Proof.Machine

/-! ## Feeding and flushing -/

theorem be16_eq_ofNat (b0 b1 : Byte) : be16 b0 b1 = BitVec.ofNat 16 (b0.toNat * 256 + b1.toNat) := by
  rw [← be16_toNat, BitVec.ofNat_toNat, BitVec.setWidth_eq]

/-- A zero-padded byte is the high byte of its word (40_checksum.md R117). -/
theorem be16_zero_eq_ofNat (b : Byte) : be16 b 0 = BitVec.ofNat 16 (b.toNat * 256) := by
  rw [be16_eq_ofNat, show (0 : Byte).toNat = 0 from rfl, Nat.add_zero]

theorem ByteStream.feed_eq (st : ByteStream) (b : Byte) : st.feed b =
    if st.pend = false then { acc := st.acc, pend := true, pbyte := b }
    else { acc := eac16 st.acc (BitVec.ofNat 16 (st.pbyte.toNat * 256 + b.toNat)), pend := false, pbyte := 0 } := by
  cases hp : st.pend
  · rw [ByteStream.feed_first hp]; rfl
  · rw [ByteStream.feed_second hp, be16_eq_ofNat]; rfl

theorem ByteStream.flush_eq (st : ByteStream) : st.flush =
    if st.pend = false then st
    else { acc := eac16 st.acc (BitVec.ofNat 16 (st.pbyte.toNat * 256)), pend := false, pbyte := 0 } := by
  cases hp : st.pend
  · rw [ByteStream.flush_empty hp]; rfl
  · rw [ByteStream.flush_pending hp, be16_zero_eq_ofNat]; rfl

/-- Settles O24: a pending byte is a byte already fed. -/
theorem byteStreamAddsPayloadWords : Obligations.ByteStreamAddsPayloadWords :=
  ⟨ByteStream.feed_eq, ByteStream.flush_eq, fun acc pbyte P => ByteStream.flush_feedAll acc (pbyte :: P),
    ByteStream.flush_feedAll⟩

/-- What a byte list, flushed, adds to ACC from any byte-stream set: PBYTE counts where PEND = 1 alone. -/
theorem ByteStream.flush_feedAll_acc (st : ByteStream) (P : List Byte) : (st.feedAll P).flush.acc =
    eacSum st.acc (payloadWords (if st.pend then st.pbyte :: P else P)) := by
  obtain ⟨acc, pend, pbyte⟩ := st
  cases pend with
  | true => exact congrArg ByteStream.acc (ByteStream.flush_feedAll acc (pbyte :: P))
  | false =>
    cases P with
    | nil => rfl
    | cons b P => exact congrArg ByteStream.acc (ByteStream.flush_feedAll acc (b :: P))

theorem ByteStream.feed_pend (st : ByteStream) (b : Byte) : (st.feed b).pend = !st.pend := by
  cases hp : st.pend
  · rw [ByteStream.feed_first hp]; rfl
  · rw [ByteStream.feed_second hp]; rfl

/-- PEND is the parity of the bytes fed (40_checksum.md R116). -/
theorem ByteStream.feedAll_pend (st : ByteStream) (P : List Byte) :
    (st.feedAll P).pend = (st.pend ^^ decide (P.length % 2 = 1)) := by
  induction P generalizing st with
  | nil => simp
  | cons b P ih =>
    have hparity : decide ((P.length + 1) % 2 = 1) = !decide (P.length % 2 = 1) := by
      rw [← decide_not]
      exact decide_eq_decide.mpr (by omega)
    rw [ByteStream.feedAll_cons, ih, ByteStream.feed_pend, List.length_cons, hparity, Bool.not_xor, Bool.xor_not]

/-! ## The payload where the host wrote it -/

/-- A written payload is read without a draw, whatever the draw counter (40_checksum.md R131). -/
theorem payload_of_written {s : State} (h : PayloadWritten s) (d : Nat) :
    ({ s with draws := d } : State).payload = (s.payload.1, d) := by
  have hread := readBytes_of_written (m := s.pbuf) (n := s.plen.toNat) (a := 0)
    (fun k hk => by rw [Nat.zero_add]; exact h k hk) d s.draws
  exact Prod.ext hread.2 hread.1

/-- Settles O25: the payload as the engine reads it is the byte list. -/
theorem addbufCompletionFeedsThePayload : Obligations.AddbufCompletionFeedsThePayload := fun s hb hop =>
  ⟨s.payload.1, s.stream.feedAll s.payload.1, s.payload.2, isPayload_payload s, engineTurn_addbuf hb hop,
    fun hw => congrArg Prod.snd (payload_of_written hw s.draws), rfl,
    by rw [ByteStream.feedAll_pend, State.payload_length],
    by rw [ByteStream.flush_feedAll_acc, eacSum_toNat]⟩

/-- The CMD write of an effect that neither reads nor writes the draw counter does not depend on it. -/
theorem issue_draws (s : State) {f : State → State} (hf : ∀ d, f { s with draws := d } = { f s with draws := d }) :
    ∃ t, issue s f = .next t ∧ ∀ d, issue { s with draws := d } f = .next { t with draws := d } := by
  rcases Bool.eq_false_or_eq_true s.busy with hb | hb
  · refine ⟨s.raiseError .busy, congrArg _ (State.whenIdle_of_busy hb f), fun d => ?_⟩
    exact congrArg _ (State.whenIdle_of_busy (s := { s with draws := d }) hb f)
  · refine ⟨f s, issue_of_idle hb f, fun d => ?_⟩
    rw [issue_of_idle (s := { s with draws := d }) hb, hf]

/-- No completion step depends on the draw counter where the payload was written (40_checksum.md R131). -/
theorem engineTurn_draws {s : State} {op : LongOp} (hb : s.busy = true) (hop : s.busyOp = some op)
    (hw : PayloadWritten s) :
    ∃ t, engineTurn s = .next t ∧ ∀ d, engineTurn { s with draws := d } = .next { t with draws := d } := by
  cases op with
  | addbuf =>
    refine ⟨_, engineTurn_addbuf hb hop, fun d => ?_⟩
    rw [engineTurn_addbuf (s := { s with draws := d }) hb hop, completeAddbuf_eq, completeAddbuf_eq,
      payload_of_written hw]
  | build =>
    refine ⟨_, engineTurn_build hb hop, fun d => ?_⟩
    rw [engineTurn_build (s := { s with draws := d }) hb hop, completeBuild_eq, completeBuild_eq, payload_of_written hw]
    rfl
  | ser =>
    refine ⟨_, engineTurn_ser hb hop, fun d => ?_⟩
    rw [engineTurn_ser (s := { s with draws := d }) hb hop, completeSer_eq, completeSer_eq, payload_of_written hw]

/-- Settles O30: no command's effect reads the draw counter, and a completion reads it for an unwritten byte alone. -/
theorem writtenPayloadIsDeterministic : Obligations.WrittenPayloadIsDeterministic := by
  constructor
  · intro i s
    cases i
    all_goals exact issue_draws s fun _ => rfl
  · intro s hc hw
    rcases Bool.eq_false_or_eq_true s.busy with hb | hb
    · obtain ⟨op, hop⟩ := Option.isSome_iff_exists.mp (hc hb)
      exact engineTurn_draws hb hop hw
    · exact ⟨s, engineTurn_idle hb, fun d => engineTurn_idle (s := { s with draws := d }) hb⟩

end Sys2Proof.Machine
end

section
/-! PROOFS. The law of each command: its word, its effect outside a busy window and its refusal inside one
(40_checksum.md R118 to R128, 41_builder.md R152, 42_serializer.md R171). -/

namespace Sys2Proof.Machine

/-- The word decodes by the round trip and a busy window refuses every command, so the effect is all there is to show
(30_encoding.md R96). -/
theorem commandLaw_of_exec (i : Instr) {effect : State → State}
    (h : ∀ s : State, s.busy = false → exec i s = .next (effect s)) : CommandLaw (encode i) i effect :=
  ⟨decodeOfEncode i, fun s => ⟨h s, exec_of_busy i⟩⟩

/-- Settles O13: NOP's effect is the identity. -/
theorem nopChangesNothing : Obligations.NopChangesNothing :=
  commandLaw_of_exec .nop fun _ hb => issue_of_idle hb _

/-- Settles O14: CLR's effect is the cleared byte-stream set. -/
theorem clrClearsTheStream : Obligations.ClrClearsTheStream :=
  commandLaw_of_exec .clr fun _ hb => issue_of_idle hb _

/-! ## The additions -/

/-- An addition command's law, from what its words make of ACC. -/
theorem commandLaw_of_isAddition {i : Instr} (hi : IsAddition i) {acc : State → Half}
    (h : ∀ s, eacSum s.stream.acc (addedWords s i) = acc s) :
    CommandLaw (encode i) i fun s => { s with stream := { s.stream with acc := acc s } } := by
  refine commandLaw_of_exec i fun s hb => ?_
  rw [exec_of_isAddition hi hb, ByteStream.addWords, h]
  rfl

/-- Settles O15: ADDW adds one word, and its format reserves bits 23:16. -/
theorem addwAddsItsWord : Obligations.AddwAddsItsWord := by
  constructor
  · exact fun imm => commandLaw_of_isAddition (i := .addw imm) (by simp [IsAddition]) fun _ => rfl
  · intro v hop hbits
    rw [decode_of_opcode_addw hop, decodeW_eq, if_neg hbits]

/-- The words of an address are its quotient and remainder by 2^16 (40_checksum.md R111). -/
theorem eacSum_addressWords (acc : Half) (a : Word) : eacSum acc (addressWords a) =
    eac16 (eac16 acc (BitVec.ofNat 16 (a.toNat / 65536))) (BitVec.ofNat 16 (a.toNat % 65536)) := by
  have hlo : loHalf a = BitVec.ofNat 16 (a.toNat % 65536) := by
    rw [← loHalf_toNat, BitVec.ofNat_toNat, BitVec.setWidth_eq]
  rw [addressWords, hiHalf_eq_ofNat, hlo, eacSum_cons, eacSum_cons, eacSum_nil]

/-- Settles O16: each address is added as its two words. -/
theorem addressCommandsAddBothHalves : Obligations.AddressCommandsAddBothHalves :=
  ⟨commandLaw_of_isAddition (i := .addsa) (by simp [IsAddition]) fun s => eacSum_addressWords s.stream.acc s.saddr,
    commandLaw_of_isAddition (i := .addda) (by simp [IsAddition]) fun s => eacSum_addressWords s.stream.acc s.daddr⟩

/-- Settles O17: both ports are two words, and LEN is one. -/
theorem portAndLengthCommandsAdd : Obligations.PortAndLengthCommandsAdd :=
  ⟨commandLaw_of_isAddition (i := .addports) (by simp [IsAddition]) fun _ => rfl,
    commandLaw_of_isAddition (i := .addlen) (by simp [IsAddition]) fun _ => rfl⟩

/-! ## The byte stream -/

/-- Settles O20: ADDB is one byte fed, and its format reserves bits 23:8. -/
theorem addbFeedsOneByte : Obligations.AddbFeedsOneByte := by
  constructor
  · refine fun imm => commandLaw_of_exec (.addb imm) fun s hb => ?_
    rw [← ByteStream.feed_eq]
    exact issue_of_idle hb _
  · intro v hop hbits
    rw [decode_of_opcode_addb hop, decodeB_eq, if_neg hbits]

/-- Settles O21: FLUSH is one flush. -/
theorem flushPadsTheOddByte : Obligations.FlushPadsTheOddByte := by
  refine commandLaw_of_exec .flush fun s hb => (issue_of_idle hb _).trans ?_
  rw [ByteStream.flush_eq]
  split <;> rfl

/-- The complement of a word, with no substitution for 0 (40_checksum.md R115). -/
theorem not16_eq_ofNat (v : Half) : not16 v = BitVec.ofNat 16 (0xFFFF - v.toNat) := by
  have hnot : not16 v = ~~~v := BitVec.xor_allOnes
  apply BitVec.eq_of_toNat_eq
  rw [hnot, BitVec.toNat_not, BitVec.toNat_ofNat]
  omega

/-- Settles O22: FIN is a flush, the complement of ACC, and SEGV cleared. -/
theorem finWritesTheComplement : Obligations.FinWritesTheComplement := by
  refine commandLaw_of_exec .fin fun s hb => (issue_of_idle hb _).trans ?_
  rw [not16_eq_ofNat, ByteStream.flush_eq]
  split <;> rfl

/-! ## The long commands -/

/-- Settles O23: the acceptance of each long command. -/
theorem longCommandsAreAccepted : Obligations.LongCommandsAreAccepted :=
  ⟨commandLaw_of_exec .addbuf fun _ hb => issue_of_idle hb _,
    commandLaw_of_exec .build fun _ hb => issue_of_idle hb _,
    commandLaw_of_exec .ser fun _ hb => issue_of_idle hb _⟩

end Sys2Proof.Machine
end

section
/-! PROOFS. The segment builder: the length that MKLEN and BUILD record and what keeps it, the checksum that BUILD's
completion writes, and BUILDSEQ, which leaves the same results (41_builder.md R151 to R157, 30_encoding.md R104). -/

namespace Sys2Proof.Machine

/-! ## The length -/

theorem lengthField_eq_ofNat_mod (plen : Half) : lengthField plen = BitVec.ofNat 16 ((8 + plen.toNat) % 65536) := by
  rw [← lengthField_toNat, BitVec.ofNat_toNat, BitVec.setWidth_eq]

theorem lengthOverflow_eq_decide (plen : Half) : lengthOverflow plen = decide (0xFFFF < 8 + plen.toNat) := by
  rw [← Bool.decide_coe (lengthOverflow plen)]
  exact decide_eq_decide.mpr (lengthOverflow_iff plen)

/-- MKLEN's effect with both fields as arithmetic (41_builder.md R151). -/
theorem recordLength_eq (s : State) : s.recordLength = { s with
    len := BitVec.ofNat 16 ((8 + s.plen.toNat) % 65536)
    lovf := decide (0xFFFF < 8 + s.plen.toNat) } := by
  rw [← lengthField_eq_ofNat_mod, ← lengthOverflow_eq_decide]
  rfl

/-- Settles O19: MKLEN's effect is the recorded length. -/
theorem mklenComputesTheLength : Obligations.MklenComputesTheLength :=
  commandLaw_of_exec .mklen fun s hb => (issue_of_idle hb _).trans (congrArg _ (recordLength_eq s))

/-! ## What keeps the length -/

theorem lengthCurrent_recordLength (s : State) : LengthCurrent s.recordLength := lengthField_toNat s.plen

theorem lengthCurrent_completeBuild (s : State) : LengthCurrent (completeBuild s) := lengthField_toNat s.plen

/-- No command writes PLEN, and the one that writes LEN computes it. -/
theorem LengthCurrent.commandDid {s t : State} {i : Instr} (h : LengthCurrent s) (hd : CommandDid s i t) :
    LengthCurrent t := by
  cases hd with
  | stream | fin | accept => exact h
  | mklen => exact lengthCurrent_recordLength s

theorem lengthCurrent_of_mklen {s t : State} (hi : CommandIssued s .mklen) (hstep : step s = .next t) :
    LengthCurrent t := by
  obtain ⟨rest, hs⟩ := step_of_commandIssued hi
  have hb : s.busy = false := hi.1
  have hexec := (issue_of_idle (s := { s with schedule := rest, response := some .ok }) hb _).symm.trans
    (hs.symm.trans hstep)
  cases hexec
  exact lengthCurrent_recordLength _

theorem lengthCurrent_of_build {s t : State} (hc : Completes s .build) (hstep : step s = .next t) :
    LengthCurrent t := by
  obtain ⟨hb, hop, hn⟩ := hc
  obtain ⟨rest, hs⟩ := step_of_engineNext hn
  rw [hs, engineTurn_build (s := { s with schedule := rest }) hb hop] at hstep
  cases hstep
  exact lengthCurrent_completeBuild _

/-- Settles O48: of the steps left, those that write LEN compute it, and none writes PLEN. -/
theorem lengthHoldsUntilAPlenWrite : Obligations.LengthHoldsUntilAPlenWrite := by
  intro s t hstep
  refine ⟨fun h => h.elim (lengthCurrent_of_mklen · hstep) (lengthCurrent_of_build · hstep), fun h hreset hplen => ?_⟩
  cases step_did hstep with
  | plen v rest hs hb hv => exact absurd ⟨hb, v, rest, hs, hv⟩ hplen
  | reset rest hs => exact absurd ⟨rest, hs⟩ hreset
  | build => exact lengthCurrent_completeBuild _
  | command _ _ rest _ _ hb _ hexec =>
    have h' : LengthCurrent { s with schedule := rest, response := some .ok } := h
    exact h'.commandDid (commandDid_of_exec hexec hb)
  | idle | read | ignored | error | ctrl | status | ports | saddr | daddr | pbuf | addbuf | ser => exact h

/-! ## The checksum -/

/-- ACC after a build is the fold of the exact sum of its words (40_checksum.md R114). -/
theorem buildStream_acc_toNat (s : State) (P : List Byte) : (buildStream s P).acc.toNat =
    fold (wideSum (fixedWords s.sport s.dport s.saddr s.daddr s.len ++ payloadWords P)) := by
  rw [buildStream_eq, eacSum_toNat, show (0 : Half).toNat = 0 from rfl, Nat.zero_add]

/-- The protocol number is among the fixed words. -/
theorem wideSum_fixedWords_pos (sp dp : Half) (sa da : Word) (len : Half) :
    1 ≤ wideSum (fixedWords sp dp sa da len) := by
  have hproto : protoNumber.toNat = 17 := rfl
  simp only [fixedWords, wideSum_append, wideSum_cons, hproto]
  omega

/-- The sum of a build is positive, and a fold keeps it so (41_builder.md R155). -/
theorem buildStream_acc_ne_zero (s : State) (P : List Byte) : (buildStream s P).acc ≠ 0 := by
  have hsum := wideSum_fixedWords_pos s.sport s.dport s.saddr s.daddr s.len
  have hpos : 1 ≤ (buildStream s P).acc.toNat := by
    rw [buildStream_acc_toNat, wideSum_append]
    exact (fold_of_pos (by omega)).1
  intro h0
  rw [h0] at hpos
  exact absurd hpos (by decide)

theorem not16_toNat (v : Half) : (not16 v).toNat = 0xFFFF - v.toNat := by
  rw [not16_eq_ofNat, BitVec.toNat_ofNat]
  omega

/-- A word is the complement of its complement (40_checksum.md R115). -/
theorem toNat_eq_of_not16 {v c : Half} (h : not16 v = c) : v.toNat = 0xFFFF - c.toNat := by
  have hv := v.isLt
  rw [← h, not16_toNat]
  omega

/-- The flushed stream of a build is its accumulator. -/
theorem buildStream_eta (s : State) (P : List Byte) :
    buildStream s P = { acc := (buildStream s P).acc, pend := false, pbyte := 0 } := by
  rw [buildStream_eq]

/-- BUILD's completion in the terms of the source (41_builder.md R153, R155). -/
theorem completeBuild_eq_csumRef (s : State) : completeBuild s = { s with
    len := BitVec.ofNat 16 ((8 + s.plen.toNat) % 65536)
    lovf := decide (0xFFFF < 8 + s.plen.toNat)
    stream := { acc := (buildStream s.recordLength s.payload.1).acc, pend := false, pbyte := 0 }
    csum := csumRef s.payload.1 s.sport s.dport s.saddr s.daddr
    segv := true, done := true, busy := false, draws := s.payload.2 } := by
  rw [completeBuild_eq, not16_buildStream_acc s.payload_length, lengthField_eq_ofNat_mod, lengthOverflow_eq_decide,
    ← buildStream_eta]

/-- Settles O26: the payload as the engine reads it, and ACC as the complement of the checksum. -/
theorem buildCompletionComputesTheChecksum : Obligations.BuildCompletionComputesTheChecksum := by
  intro s hb hop
  have hne := buildStream_acc_ne_zero s.recordLength s.payload.1
  have hacc := toNat_eq_of_not16 (not16_buildStream_acc s.payload_length)
  refine ⟨s.payload.1, _, s.payload.2, isPayload_payload s, fun hw => congrArg Prod.snd (payload_of_written hw s.draws),
    (engineTurn_build hb hop).trans (congrArg _ (completeBuild_eq_csumRef s)), hacc, hne, fun hc => hne ?_⟩
  rw [hc] at hacc
  exact BitVec.eq_of_toNat_eq hacc

/-! ## BUILDSEQ -/

theorem addedWords_of_operands (s : State) (r : Option Response) (st : ByteStream) :
    addedWords { s with response := r, stream := st } = addedWords s := by
  funext i
  cases i <;> rfl

/-- The CMD writes of addition commands, one after another. -/
theorem runsTo_additions {l : List Instr} (hl : ∀ i ∈ l, IsAddition i) {s : State} (hb : s.busy = false)
    (rest : List Event) :
    runsTo { s with schedule := l.map cmd ++ rest, response := some .ok } l.length
      { s with schedule := rest, response := some .ok, stream := s.stream.addWords (l.flatMap (addedWords s)) } := by
  induction l generalizing s with
  | nil => exact runsTo_zero _
  | cons i l ih =>
    obtain ⟨hi, hl⟩ := List.forall_mem_cons.mp hl
    have htail := ih hl (s := { s with response := some .ok, stream := s.stream.addWords (addedWords s i) }) hb
    rw [addedWords_of_operands] at htail
    simp only [ByteStream.addWords, ← eacSum_append] at htail
    exact runsTo_succ (step_cmd_of_isAddition hi (s := { s with response := some .ok }) hb _) htail

/-- The additions of BUILDSEQ, in its order (30_encoding.md R104). -/
def buildSeqAdditions : List Instr := [.addsa, .addda, .addw 0x0011, .addlen, .addports, .addlen]

theorem buildSeq_eq (polls : Nat) : buildSeq polls = cmd .clr :: cmd .mklen ::
    (buildSeqAdditions.map cmd ++ cmd .addbuf :: (waitIdle polls ++ [cmd .fin])) := rfl

theorem isAddition_of_mem_buildSeqAdditions : ∀ i ∈ buildSeqAdditions, IsAddition i := by
  simp [buildSeqAdditions, IsAddition]

/-- They add the nine fixed words of a build (41_builder.md R154). -/
theorem addedWords_buildSeqAdditions (s : State) :
    buildSeqAdditions.flatMap (addedWords s) = fixedWords s.sport s.dport s.saddr s.daddr s.len := rfl

/-- The CMD write of a command, first of a run, does what the command's meaning says (30_encoding.md R96). -/
theorem runsTo_cmd {s u : State} {i : Instr} {effect : State → State} {rest : List Event} {k : Nat}
    (hs : s.schedule = cmd i :: rest) (hb : s.busy = false) (he : ∀ s, exec i s = issue s effect)
    (h : runsTo (effect { s with schedule := rest, response := some .ok }) k u) : runsTo s (k + 1) u := by
  refine runsTo_succ ((step_cmd hs).trans ?_) h
  rw [he]
  exact issue_of_idle (s := { s with schedule := rest, response := some .ok }) hb effect

/-- BUILDSEQ up to its ADDBUF: the length is recorded, and the fixed words are in ACC. -/
theorem runsTo_buildSeq_toAddbuf {s : State} (hb : s.busy = false) (rest : List Event) :
    runsTo { s with schedule := cmd .clr :: cmd .mklen :: (buildSeqAdditions.map cmd ++ cmd .addbuf :: rest) } 9
      { s with
        schedule := rest, response := some .ok
        len := lengthField s.plen, lovf := lengthOverflow s.plen
        stream := ByteStream.cleared.addWords (fixedWords s.sport s.dport s.saddr s.daddr (lengthField s.plen))
        busy := true, busyOp := some .addbuf } := by
  refine runsTo_cmd rfl hb (fun _ => rfl) (runsTo_cmd rfl hb (fun _ => rfl) ?_)
  have hadd := runsTo_additions isAddition_of_mem_buildSeqAdditions
    (s := { s.recordLength with stream := .cleared }) hb (cmd .addbuf :: rest)
  rw [addedWords_buildSeqAdditions] at hadd
  exact runsTo_append hadd (runsTo_cmd rfl hb (fun _ => rfl) (runsTo_zero _))

/-- One poll of `wait_idle` changes nothing but the answer and the draws (20_memory.md R74). -/
theorem step_poll {s : State} {rest : List Event} (hs : s.schedule = .host (.read 0x00008 .word) :: rest) :
    ∃ r d, step s = .next { s with schedule := rest, response := r, draws := d } :=
  ⟨_, _, (step_cons hs).trans (access_read { s with schedule := rest } (off := 0x00008) (by decide))⟩

theorem runsTo_polls (s : State) (polls : Nat) (rest : List Event) : ∃ r d,
    runsTo { s with schedule := List.replicate polls (.host (.read 0x00008 .word)) ++ rest } polls
      { s with schedule := rest, response := r, draws := d } := by
  induction polls generalizing s with
  | zero => exact ⟨_, _, runsTo_zero _⟩
  | succ n ih =>
    obtain ⟨r, d, hread⟩ := step_poll (s := { s with
      schedule := List.replicate (n + 1) (.host (.read 0x00008 .word)) ++ rest }) rfl
    obtain ⟨r', d', hpolls⟩ := ih { s with response := r, draws := d }
    exact ⟨r', d', runsTo_succ hread hpolls⟩

/-- ADDBUF's completion where the payload was written, from any draw counter: no draw is made (40_checksum.md R129,
R131). -/
theorem step_engine_addbuf_of_written {s : State} (hb : s.busy = true) (hop : s.busyOp = some .addbuf)
    (hw : PayloadWritten s) (rest : List Event) (r : Option Response) (d : Nat) :
    step { s with schedule := .engine :: rest, response := r, draws := d } = .next { s with
      schedule := rest, response := r, draws := d
      stream := s.stream.feedAll s.payload.1, done := true, busy := false } := by
  have hpayload : ({ s with schedule := rest, response := r, draws := d } : State).payload = (s.payload.1, d) :=
    payload_of_written hw d
  rw [step_cons rfl, perform, engineTurn_addbuf (s := { s with schedule := rest, response := r, draws := d }) hb hop,
    completeAddbuf_eq, hpayload]

/-- `wait_idle` sees ADDBUF complete, whatever the polls drew, where the payload was written (30_encoding.md R103). -/
theorem runsTo_waitIdle_addbuf {s : State} (hb : s.busy = true) (hop : s.busyOp = some .addbuf)
    (hw : PayloadWritten s) (polls : Nat) (rest : List Event) : ∃ r d,
    runsTo { s with schedule := waitIdle polls ++ rest } (polls + 2)
      { s with
        schedule := rest, response := r, draws := d
        stream := s.stream.feedAll s.payload.1, done := true, busy := false } := by
  obtain ⟨r, d, hpolls⟩ := runsTo_polls s polls (.engine :: .host (.read 0x00008 .word) :: rest)
  have hturn := step_engine_addbuf_of_written hb hop hw (.host (.read 0x00008 .word) :: rest) r d
  obtain ⟨r', d', hread⟩ := step_poll (s := { s with
    schedule := .host (.read 0x00008 .word) :: rest, response := r, draws := d
    stream := s.stream.feedAll s.payload.1, done := true, busy := false }) rfl
  rw [waitIdle, List.append_assoc]
  exact ⟨r', d', runsTo_append hpolls (runsTo_succ hturn (runsTo_succ hread (runsTo_zero _)))⟩

/-- What BUILDSEQ leaves: BUILD's results, with SEGV cleared by its FIN (41_builder.md R154). The fixed words added, the
payload fed and the flush are `buildStream` step by step. -/
theorem runsTo_buildSeq {s : State} (hb : s.busy = false) (hw : PayloadWritten s) (polls : Nat) : ∃ r d,
    runsTo { s with schedule := buildSeq polls } (polls + 12) { s with
      schedule := [], response := r, draws := d
      len := lengthField s.plen, lovf := lengthOverflow s.plen
      stream := buildStream s.recordLength s.payload.1
      csum := not16 (buildStream s.recordLength s.payload.1).acc
      segv := false, done := true, busy := false, busyOp := some .addbuf } := by
  have hstart := runsTo_buildSeq_toAddbuf hb (waitIdle polls ++ [cmd .fin])
  obtain ⟨r, d, hwait⟩ := runsTo_waitIdle_addbuf (s := { s with
    response := some .ok
    len := lengthField s.plen, lovf := lengthOverflow s.plen
    stream := ByteStream.cleared.addWords (fixedWords s.sport s.dport s.saddr s.daddr (lengthField s.plen))
    busy := true, busyOp := some .addbuf }) rfl rfl hw polls [cmd .fin]
  rw [buildSeq_eq, show polls + 12 = 9 + (polls + 2 + 1) by omega]
  refine ⟨some .ok, d, runsTo_append hstart (runsTo_append hwait ?_)⟩
  exact runsTo_cmd rfl rfl (fun _ => rfl) (runsTo_zero _)

/-- What BUILD and its completion leave (41_builder.md R153). -/
theorem runsTo_build {s : State} (hb : s.busy = false) :
    runsTo { s with schedule := [cmd .build, .engine] } 2
      (completeBuild { s with schedule := [], response := some .ok, busy := true, busyOp := some .build }) := by
  refine runsTo_cmd rfl hb (fun _ => rfl) (runsTo_succ ?_ (runsTo_zero _))
  rw [step_cons rfl, perform]
  exact engineTurn_build rfl rfl

/-- Settles O29: both schedules leave the recorded length and the flushed stream of the build. -/
theorem buildSequenceMatchesBuild : Obligations.BuildSequenceMatchesBuild := by
  intro s polls hb hw
  obtain ⟨r, d, hseq⟩ := runsTo_buildSeq hb hw polls
  have hflushed := buildStream_eta s.recordLength s.payload.1
  exact ⟨_, _, hseq, runsTo_build hb, rfl, rfl, rfl, rfl, congrArg ByteStream.pend hflushed,
    congrArg ByteStream.pbyte hflushed, rfl, rfl, rfl, rfl⟩

end Sys2Proof.Machine
end

section
/-! PROOFS. The wire serializer: the image that SER's completion leaves in OBUF, byte by byte (42_serializer.md R170 to
R173). -/

namespace Sys2Proof.Machine

theorem hiByte_eq_ofNat (v : Half) : hiByte v = BitVec.ofNat 8 (v.toNat / 256) := by
  rw [hiByte, BitVec.extractLsb', Nat.shiftRight_eq_div_pow]

theorem loByte_eq_ofNat (v : Half) : loByte v = BitVec.ofNat 8 (v.toNat % 256) :=
  BitVec.eq_of_toNat_eq (by rw [loByte, BitVec.extractLsb'_toNat, BitVec.toNat_ofNat, Nat.mod_mod, Nat.shiftRight_zero])

theorem totalLength_eq_ofNat (plen : Half) : totalLength plen = BitVec.ofNat 17 (8 + plen.toNat) := by
  rw [← totalLength_toNat, BitVec.ofNat_toNat, BitVec.setWidth_eq]

/-- SER's completion in the terms of the source (42_serializer.md R172, R173). -/
theorem completeSer_eq_wireImage (s : State) : completeSer s = { s with
    obuf := Memory.image (wireImage s.sport s.dport s.len s.csum s.payload.1)
    olen := BitVec.ofNat 17 (8 + s.plen.toNat), done := true, busy := false, draws := s.payload.2 } := by
  rw [completeSer_eq, totalLength_eq_ofNat]
  rfl

/-- Each header field stands at its even index, the high byte first (42_serializer.md R170). -/
theorem read_wireImage_header {sp dp len csum : Half} (P : List Byte) {k : Nat} {v : Half}
    (hkv : (k, v) ∈ [(0, sp), (2, dp), (4, len), (6, csum)]) :
    (Memory.image (wireImage sp dp len csum P)).read k = some (BitVec.ofNat 8 (v.toNat / 256)) ∧
    (Memory.image (wireImage sp dp len csum P)).read (k + 1) = some (BitVec.ofNat 8 (v.toNat % 256)) := by
  rw [Memory.read_image, Memory.read_image, ← hiByte_eq_ofNat, ← loByte_eq_ofNat]
  simp only [List.mem_cons, List.not_mem_nil, or_false, Prod.mk.injEq] at hkv
  rcases hkv with ⟨rfl, rfl⟩ | ⟨rfl, rfl⟩ | ⟨rfl, rfl⟩ | ⟨rfl, rfl⟩ <;> exact ⟨rfl, rfl⟩

/-- The payload follows the eight header bytes (42_serializer.md R170). -/
theorem wireImage_getElem?_payload (sp dp len csum : Half) (P : List Byte) (k : Nat) :
    (wireImage sp dp len csum P)[8 + k]? = P[k]? := by
  rw [wireImage, List.getElem?_append_right (Nat.le_add_right 8 k)]
  exact congrArg (P[·]?) (Nat.add_sub_cancel_left 8 k)

/-- Settles O27: the filled image of the header and the payload as the engine reads it. -/
theorem serCompletionWritesTheWireImage : Obligations.SerCompletionWritesTheWireImage := by
  intro s hb hop
  have hpayload : IsPayload s s.payload.1 := isPayload_payload s
  refine ⟨s.payload.1, Memory.image (wireImage s.sport s.dport s.len s.csum s.payload.1), s.payload.2, hpayload,
    fun hw => congrArg Prod.snd (payload_of_written hw s.draws),
    (engineTurn_ser hb hop).trans (congrArg _ (completeSer_eq_wireImage s)),
    fun k _ => Memory.read_image _ k, fun _ _ => read_wireImage_header s.payload.1, fun k b hk hread => ?_⟩
  rw [Memory.read_image, wireImage_getElem?_payload, hpayload.2 k b hk hread, Option.getD_some]

end Sys2Proof.Machine
end

section
/-! PROOFS. Errors and the busy window: what an error records, what clears it, which writes a busy window refuses, and the
inputs it freezes (60_exceptions.md R190 to R195). -/

namespace Sys2Proof.Machine

/-! ## Recording an error -/

/-- Settles O42: each code by its own, and the STATUS write by the register table. -/
theorem errorKeepsTheFirstCode : Obligations.ErrorKeepsTheFirstCode := by
  refine ⟨fun s e => ?_, fun s v hv => ?_, fun s => ⟨_, rfl, rfl, rfl⟩⟩
  · cases e <;> rfl
  · obtain ⟨-, hstatus, -⟩ := registerWriteTable s v
    exact ⟨_, hstatus, if_pos hv, if_pos hv⟩

/-! ## Refused writes -/

/-- The registers whose writes a busy window refuses (60_exceptions.md R192). -/
def guardedRegs : List Reg := [.cmd, .ports, .saddr, .daddr, .plen]

theorem writeReg_of_busy {r : Reg} (hr : r ∈ guardedRegs) {s : State} (hb : s.busy = true) (v : Word) :
    writeReg r v s = .next (s.raiseError .busy) := by
  simp only [guardedRegs, List.mem_cons, List.not_mem_nil, or_false] at hr
  rcases hr with rfl | rfl | rfl | rfl | rfl
  case inl => exact if_pos hb
  all_goals exact congrArg _ (State.whenIdle_of_busy hb _)

/-- Settles O35: the guarded registers by `writeReg_of_busy`, the rest by the laws of PBUF, CTRL and STATUS writes. -/
theorem busyWindowRefusesWrites : Obligations.BusyWindowRefusesWrites := by
  intro s v hb
  obtain ⟨hctrl, hstatus, -⟩ := registerWriteTable s v
  refine ⟨fun off h4 hin => ?_, hctrl, hstatus⟩
  rcases hin with hreg | ⟨hlo, hhi⟩
  · obtain ⟨r, hr, ho⟩ := List.mem_map.mp (show off.toNat ∈ guardedRegs.map Reg.offset from hreg)
    exact (access_write_of_register r v ho.symm).trans (writeReg_of_busy hr (s := { s with response := some .ok }) hb v)
  · exact (pbufWriteThenRead s v off h4 hlo hhi).1 hb

/-! ## Frozen inputs -/

/-- Settles O52: a step of a busy window is a read, a refused or ignored write, a CTRL or STATUS write, or the
completion, which ends it. -/
theorem inputsAreFrozenInTheBusyWindow : Obligations.InputsAreFrozenInTheBusyWindow := by
  intro s t hb hstep hreset
  cases step_did hstep with
  | read | ignored | error | ctrl | status => exact ⟨rfl, rfl, rfl, rfl, rfl, rfl, rfl, fun _ => ⟨rfl, rfl⟩⟩
  | addbuf | build | ser => exact ⟨rfl, rfl, rfl, rfl, rfl, rfl, rfl, fun hbusy => nomatch hbusy⟩
  | reset rest hs => exact absurd ⟨rest, hs⟩ hreset
  | idle _ _ hidle | command _ _ _ _ _ hidle | ports _ _ _ hidle | saddr _ _ _ hidle | daddr _ _ _ hidle
  | plen _ _ _ hidle | pbuf _ _ _ _ _ _ hidle => exact absurd hb (Bool.eq_false_iff.mp hidle)

end Sys2Proof.Machine
end

section
/-! PROOFS. Progress: with a command in BUSY_OP and only aligned 4-byte accesses to come no step stops, each takes one
event off the schedule, and so the engine's turn comes (60_exceptions.md R190, R204; 20_memory.md R63). -/

namespace Sys2Proof.Machine

/-! ## Every event answers -/

theorem engineTurn_answers {s : State} (hc : CommandInProgress s) : ∃ t, engineTurn s = .next t := by
  cases hb : s.busy with
  | false => exact ⟨s, engineTurn_idle hb⟩
  | true =>
    obtain ⟨op, hop⟩ := Option.isSome_iff_exists.mp (hc hb)
    cases op with
    | addbuf => exact ⟨_, engineTurn_addbuf hb hop⟩
    | build => exact ⟨_, engineTurn_build hb hop⟩
    | ser => exact ⟨_, engineTurn_ser hb hop⟩

theorem eq_word_of_accepted {off : Offset} {size : AccessSize} (h : accepted off size = true) :
    size = .word ∧ off.toNat % 4 = 0 := by
  simpa [accepted] using h

/-- An access that is no bus error answers, by the law of bus errors (20_memory.md R63). -/
theorem access_answers {tr : Transaction} (h : (Event.host tr).wellFormed = true) (s : State) :
    ∃ t, access tr s = .next t := by
  cases tr with
  | read off size =>
    obtain ⟨rfl, h4⟩ := eq_word_of_accepted h
    exact ⟨_, access_read s h4⟩
  | write off size v =>
    obtain ⟨rfl, h4⟩ := eq_word_of_accepted h
    exact access_write s v h4 ▸ writeRegion_answers _ v _

theorem step_answers {s : State} (hc : CommandInProgress s) (hsafe : SafeSchedule s) : ∃ t, step s = .next t := by
  cases hs : s.schedule with
  | nil => exact step_nil hs ▸ engineTurn_answers hc
  | cons e rest =>
    have he : e.wellFormed = true := List.all_eq_true.mp hsafe e (hs ▸ List.mem_cons_self)
    rw [step_cons hs]
    cases e with
    | host tr => exact access_answers he _
    | engine => exact engineTurn_answers (s := { s with schedule := rest }) hc
    | reset => exact ⟨_, rfl⟩

/-! ## What a step makes of the schedule and of BUSY_OP -/

theorem engineTurn_schedule {s t : State} (h : engineTurn s = .next t) : t.schedule = s.schedule := by
  rcases engineTurn_cases h with ⟨-, rfl⟩ | ⟨-, -, rfl⟩ | ⟨-, -, rfl⟩ | ⟨-, -, rfl⟩ <;> rfl

theorem CommandDid.schedule {s t : State} {i : Instr} (h : CommandDid s i t) : t.schedule = s.schedule := by
  cases h <;> rfl

/-- A step takes the first event off the schedule, and an empty one stays empty. -/
theorem step_schedule {s t : State} (hstep : step s = .next t) : t.schedule = s.schedule.tail := by
  by_cases hn : EngineNext s
  case pos =>
    rcases hn with hs | ⟨rest, hs⟩
    · rw [step_nil hs] at hstep
      rw [engineTurn_schedule hstep, hs]
      rfl
    · rw [step_cons hs] at hstep
      rw [hs]
      exact engineTurn_schedule hstep
  case neg =>
    cases step_did hstep with
    | idle _ he => exact absurd he hn
    | addbuf _ hc | build _ hc | ser _ hc =>
      obtain ⟨-, -, he⟩ := hc
      exact absurd he hn
    | command _ _ rest hs _ hb _ hexec =>
      rw [hs]
      exact (commandDid_of_exec hexec hb).schedule
    | read _ _ hs | ignored _ _ _ hs | error _ _ _ _ hs | ctrl _ _ hs | status _ _ hs | ports _ _ hs
    | saddr _ _ hs | daddr _ _ hs | plen _ _ hs | pbuf _ _ _ _ hs | reset _ hs => rw [hs]; rfl

theorem step_safeSchedule {s t : State} (hsafe : SafeSchedule s) (hstep : step s = .next t) : SafeSchedule t := by
  rw [SafeSchedule, step_schedule hstep, List.all_eq_true]
  exact fun e he => List.all_eq_true.mp hsafe e (List.mem_of_mem_tail he)

theorem CommandInProgress.commandDid {s t : State} {i : Instr} (h : CommandInProgress s) (hd : CommandDid s i t) :
    CommandInProgress t := by
  cases hd with
  | stream | fin | mklen => exact h
  | accept op => exact fun _ => rfl

/-- BUSY rises with its command in BUSY_OP, and BUSY_OP is cleared by a reset alone (10_state.md R39). -/
theorem step_commandInProgress {s t : State} (hc : CommandInProgress s) (hstep : step s = .next t) :
    CommandInProgress t := by
  cases step_did hstep with
  | idle | read | ignored | error | ctrl | status | ports | saddr | daddr | plen | pbuf => exact hc
  | command _ _ rest _ _ hb _ hexec =>
    have h' : CommandInProgress { s with schedule := rest, response := some .ok } := hc
    exact CommandInProgress.commandDid h' (commandDid_of_exec hexec hb)
  | addbuf | build | ser | reset => exact fun hbusy => nomatch hbusy

/-! ## The engine completes -/

/-- Settles O54: a step answers, and keeps both premises. -/
theorem safeScheduleNeverStops : Obligations.SafeScheduleNeverStops := by
  intro s hc hsafe
  obtain ⟨t, hstep⟩ := step_answers hc hsafe
  exact ⟨t, hstep, step_commandInProgress hc hstep, step_safeSchedule hsafe hstep⟩

/-- Settles O53, by induction on the events still to come: with none left the step is the completion. -/
theorem engineCompletesEventually : Obligations.EngineCompletesEventually := by
  intro s hb hc hsafe
  induction hs : s.schedule generalizing s with
  | nil =>
    obtain ⟨t, hstep⟩ := step_answers hc hsafe
    obtain ⟨op, hop⟩ := Option.isSome_iff_exists.mp (hc hb)
    have hcompletes : Completes s op := ⟨hb, hop, .inl hs⟩
    exact ⟨1, t, Nat.le_refl 1, runsTo_succ hstep (runsTo_zero t), (busy_done_of_completes hcompletes hstep).1⟩
  | cons e rest ih =>
    obtain ⟨t, hstep, hct, hsafet⟩ := safeScheduleNeverStops s hc hsafe
    cases hbt : t.busy with
    | false => exact ⟨1, t, Nat.le_add_left 1 _, runsTo_succ hstep (runsTo_zero t), hbt⟩
    | true =>
      have hrest : t.schedule = rest := by rw [step_schedule hstep, hs, List.tail_cons]
      obtain ⟨k, u, hk, hrun, hu⟩ := ih t hbt hct hsafet hrest
      exact ⟨k + 1, u, Nat.succ_le_succ hk, runsTo_succ hstep hrun, hu⟩

end Sys2Proof.Machine
end

section
/-! PROOFS. The build path end to end: BUILD, its completion, SER and its completion leave the segment of the source's
build in OBUF (70_reset_and_hazards.md R223). -/

namespace Sys2Proof.Machine

/-! ## A long command followed at once by the engine's turn -/

theorem exec_command (op : LongOp) (s : State) : exec op.command s = issue s fun s => s.acceptLong op := by
  cases op <;> rfl

/-- The two steps of a long command from outside a busy window: the acceptance, then the completion (40_checksum.md
R128, 41_builder.md R152, 42_serializer.md R171). -/
theorem runsTo_long_engine {s t : State} {op : LongOp} {rest : List Event} (hb : s.busy = false)
    (hs : s.schedule = cmd op.command :: .engine :: rest)
    (ht : engineTurn { s with schedule := rest, response := some .ok, busy := true, busyOp := some op } = .next t) :
    runsTo s 2 t := by
  refine runsTo_cmd hs hb (exec_command op) (runsTo_succ ?_ (runsTo_zero t))
  rw [step_cons rfl]
  exact ht

/-! ## BUILD, then SER -/

/-- The wire image that BUILD and then SER leave: the header of the build of payload `P`, then payload `Q`. -/
def builtImage (s : State) (P Q : List Byte) : List Byte :=
  wireImage s.sport s.dport (BitVec.ofNat 16 (8 + s.plen.toNat)) (csumRef P s.sport s.dport s.saddr s.daddr) Q

/-- SER's completion after BUILD's writes the image of the build, with the payload read again from the draws that BUILD
left (42_serializer.md R173). -/
theorem completeSer_completeBuild_obuf (s : State) (rest : List Event) (r : Option Response) (op : Option LongOp) :
    (completeSer { completeBuild s with schedule := rest, response := r, busy := true, busyOp := op }).obuf =
      Memory.image (builtImage s s.payload.1 ({ s with draws := s.payload.2 } : State).payload.1) := by
  rw [completeSer_eq_wireImage, completeBuild_eq, not16_buildStream_acc s.payload_length, lengthField_eq_ofNat]
  rfl

/-- Settles O28: the two long commands in turn, each with the payload as the engine reads it. -/
theorem buildThenSerGivesTheSegment : Obligations.BuildThenSerGivesTheSegment := by
  intro s rest hb hs
  have hbuild := runsTo_long_engine (op := .build) hb hs (engineTurn_build rfl rfl)
  refine ⟨s.payload.1, ({ s with draws := s.payload.2 } : State).payload.1, _, isPayload_payload s,
    isPayload_payload { s with draws := s.payload.2 },
    fun hw => (congrArg Prod.fst (payload_of_written hw s.payload.2)).symm,
    runsTo_append hbuild (runsTo_long_engine (op := .ser) rfl rfl (engineTurn_ser rfl rfl)), rfl, rfl, rfl, rfl,
    totalLength_toNat s.plen, rfl, fun k _ => ?_⟩
  rw [completeSer_completeBuild_obuf]
  exact Memory.read_image _ k

end Sys2Proof.Machine
end
